-- ==== Sys2Proof/Word.lean ====
section
/-! DEFINITION. The word types of GF11RS: what the spec treats as bits, and the two register numbers. -/

namespace Sys2Proof

/-- A command word or a response word: 32 bits carried in parallel, bit 31 the most significant (R44, R60, R66). -/
abbrev Word := BitVec 32

/-- A field element, an 11-bit value; bit i is the coefficient of x^i (R6, R80). Its width is M of R5. -/
abbrev Elem := BitVec 11

/-- A control register, or the DATA field of a response: 16 bits (R26, R66). -/
abbrev Half := BitVec 16

/-- The number of an element register, 0..7: no value is illegal (R21, R65). -/
abbrev EReg := Fin 8

/-- The number of a polynomial register, 0..1: no value is illegal (R22, R65). -/
abbrev PReg := Fin 2

/-- The fourteen coefficients of a polynomial register, or a word of fourteen symbols (R22, R120). -/
abbrev Coefs := Vector Elem 14

end Sys2Proof
end

