-- ==== Sys2Proof/Config.lean ====
section
/-! DEFINITION. The implementation parameters of R5, in one record. The widths 11, 14, 8 and 2 also stand in the types
of Word.lean and State.lean (they are this hardware's, fixed); every other use of a parameter goes through the record. -/

namespace Sys2Proof

/-- The parameters of R5 (00_scope.md), but for LAT, which has no value and which no rule reads (R192). -/
structure Params where
  /-- M: bits per field element. -/
  m : Nat
  /-- POLY: the reduction polynomial. -/
  poly : Nat
  /-- ALPHA: the primitive element whose powers are the roots of the generator polynomial. -/
  alpha : Nat
  /-- N: coefficients per polynomial register, symbols per codeword. -/
  n : Nat
  /-- K: check symbols. -/
  k : Nat
  /-- B: exponent of the first root. -/
  b : Nat
  /-- NBITS: bits in the coefficient array of one polynomial register. -/
  nbits : Nat
  /-- NE: element registers. -/
  ne : Nat
  /-- NP: polynomial registers. -/
  np : Nat
  deriving DecidableEq, Repr

/-- The value each parameter has in this hardware (R5). -/
def Config.hw : Params :=
  { m := 11, poly := 0x805, alpha := 2, n := 14, k := 1, b := 0, nbits := 154, ne := 8, np := 2 }

@[simp] theorem Config.hw_m : Config.hw.m = 11 := rfl
@[simp] theorem Config.hw_poly : Config.hw.poly = 0x805 := rfl
@[simp] theorem Config.hw_alpha : Config.hw.alpha = 2 := rfl
@[simp] theorem Config.hw_n : Config.hw.n = 14 := rfl
@[simp] theorem Config.hw_k : Config.hw.k = 1 := rfl
@[simp] theorem Config.hw_b : Config.hw.b = 0 := rfl
@[simp] theorem Config.hw_nbits : Config.hw.nbits = 154 := rfl
@[simp] theorem Config.hw_ne : Config.hw.ne = 8 := rfl
@[simp] theorem Config.hw_np : Config.hw.np = 2 := rfl

end Sys2Proof
end

