-- ==== Sys2Proof/Machine/State.lean ====
section
/-! DEFINITION. The state of the block (R20) and of its two ports (R44, R193), as plain data; the reasons a step can
stop; and the state after reset (R33). -/

namespace Sys2Proof.Machine

/-- A polynomial register (R22): fourteen coefficients, coefficient i that of x^i, and the degree, a signed integer in
-1..13 where -1 denotes the zero polynomial (R23). -/
structure PolyReg where
  c : Coefs
  deg : Int
  deriving DecidableEq, Repr

/-- What the outside does to the block next (R180, R193). -/
inductive PortEvent where
  /-- The host presents a command word and waits for its response. -/
  | command (w : Word)
  /-- The platform asserts the hard reset while no command is being executed. -/
  | hardReset
  /-- The platform asserts the hard reset while the block executes this word: "that command then has no effect and
  produces no response" (R180). -/
  | cutCommand (w : Word)
  deriving DecidableEq, Repr

/-- The six faults that are latched in STATUS.FCODE (R160). Taking one is a NEXT state (R169), not a stop of the
model. -/
inductive FaultCode where
  | illegal | operand | invzero | polyovf | encpre | bitrange
  deriving DecidableEq, Repr

/-- Reasons for which a step stops the model. There is none: every command word in every state has a defined response
and a defined next state (93_implementation_defined.md part 2; R72, R170), the block has no memory whose addresses
could fail to exist (R48), and its own faults are next states (R169). With no constructor, nothing can raise one,
which is safe. -/
inductive Fault where
  deriving DecidableEq, Repr

/-- Reasons for which a step refuses. The block's own REFUSED answer (R167) is a next state and is not one of these. -/
inductive Refusal where
  /-- Raised only by an arm of exec for an instruction that has no meaning yet; no arm does so. Safe: the model stops. -/
  | notModelled (mnemonic : String)
  deriving DecidableEq, Repr

/-- Everything that survives from one command to the next (R20), then the two ports. -/
structure State where
  /-- `e[0..7]`, the element registers (R21). -/
  e : Vector Elem 8
  /-- `p[0..1]`, the polynomial registers (R22, R23). -/
  p : Vector PolyReg 2
  /-- STATUS, control register 0 (R26): OK, EQ, FCODE, F and bits that read as zero. -/
  status : Half
  /-- BITPOS, control register 1 (R27). -/
  bitpos : BitVec 8
  /-- CFG0, control register 2, read-only (R28). -/
  cfg0 : Half
  /-- CFG1, control register 3, read-only (R28). -/
  cfg1 : Half
  /-- CFG2, control register 4, read-only (R28). -/
  cfg2 : Half
  /-- `G[0..K]`, the generator polynomial's coefficients, read-only (R29). -/
  g : Vector Elem 2
  /-- The command port: what the outside will do, in order. It is an input, not state of the block (R30, R193). -/
  port : List PortEvent
  /-- The response port: every response produced so far, oldest first (R66, R194). The block never reads it. -/
  responses : List Word
  deriving DecidableEq, Repr

/-- CFG0: M in bits 3:0, N in bits 8:4, K in bits 13:9 (R28). -/
def cfg0Value (P : Params) : Half := BitVec.ofNat 16 (P.m + P.n * 2 ^ 4 + P.k * 2 ^ 9)

/-- CFG1: POLY in bits 11:0 (R28). -/
def cfg1Value (P : Params) : Half := BitVec.ofNat 16 P.poly

/-- CFG2: ALPHA in bits 10:0, B in bits 15:11 (R28). -/
def cfg2Value (P : Params) : Half := BitVec.ofNat 16 (P.alpha + P.b * 2 ^ 11)

/-- G for K = 1 and B = 0: "g(x) = x − 1 = x + 1" (R29). -/
def genValue : Vector Elem 2 := #v[1, 1]

/-- The empty polynomial: every coefficient zero, degree -1 (R33, R102). -/
def PolyReg.empty : PolyReg := { c := Vector.replicate 14 0, deg := -1 }

/-- The state after reset (R33). Nothing is presented at the command port and nothing has been answered. -/
def State.reset : State where
  e := Vector.replicate 8 0
  p := #v[PolyReg.empty, PolyReg.empty]
  status := 0
  bitpos := 0
  cfg0 := cfg0Value Config.hw
  cfg1 := cfg1Value Config.hw
  cfg2 := cfg2Value Config.hw
  g := genValue
  port := []
  responses := []

end Sys2Proof.Machine
end

