-- ==== Sys2Proof/Machine/Field.lean ====
section
/-! DEFINITION. The field GF(2^11): R81 to R85. -/

namespace Sys2Proof.Machine

/-- POLY as a 12-bit constant (R5, R82). -/
def polyBits : BitVec 12 := BitVec.ofNat 12 Config.hw.poly

/-- ALPHA as an element (R5, R87). -/
def alpha : Elem := BitVec.ofNat 11 Config.hw.alpha

/-- `gf_add` (R81): xor; it is also subtraction. -/
def gfAdd (a b : Elem) : Elem := a ^^^ b

/-- Multiplication by x (R82): shift into 12 bits, subtract POLY when bit 11 is set, keep bits 10:0. -/
def xtime (a : Elem) : Elem :=
  let t : BitVec 12 := a.setWidth 12 <<< 1
  (if t.getLsbD 11 then t ^^^ polyBits else t).setWidth 11

/-- The loop of `gf_mul`, for the bits `n - 1` down to 0 of `b` (R83). -/
def gfMulFrom (a b : Elem) : Nat → Elem → Elem
  | 0, acc => acc
  | n + 1, acc => gfMulFrom a b n (if b.getLsbD n then xtime acc ^^^ a else xtime acc)

/-- `gf_mul` (R83): shift and add, high bit of `b` first. -/
def gfMul (a b : Elem) : Elem := gfMulFrom a b Config.hw.m 0

/-- The carry-less product of R83's second definition, of bits 0 to `n - 1` of `b`. -/
def clmulUpTo (a b : Elem) : Nat → BitVec 21
  | 0 => 0
  | n + 1 => if b.getLsbD n then clmulUpTo a b n ^^^ (a.setWidth 21 <<< n) else clmulUpTo a b n

/-- The reduction of R83's second definition, for bits `n + 10` down to 11 of the product. -/
def reduceFrom : Nat → BitVec 21 → BitVec 21
  | 0, prod => prod
  | n + 1, prod => reduceFrom n (if prod.getLsbD (n + 11) then prod ^^^ (polyBits.setWidth 21 <<< n) else prod)

/-- `gf_mul'` (R83): multiply, then reduce. No command computes it; it is the reference the spec asks `gf_mul` to
equal. -/
def gfMulReduce (a b : Elem) : Elem := (reduceFrom 10 (clmulUpTo a b Config.hw.m)).setWidth 11

/-- `gf_pow` as R84 defines it: the n-fold product, 1 for n = 0. -/
def gfPow (a : Elem) : Nat → Elem
  | 0 => 1
  | n + 1 => gfMul a (gfPow a n)

/-- Square and multiply over the bits `k - 1` down to 0 of the exponent. -/
def gfPowFrom (a : Elem) (n : Nat) : Nat → Elem → Elem
  | 0, acc => acc
  | k + 1, acc => gfPowFrom a n k (if n.testBit k then gfMul (gfMul acc acc) a else gfMul acc acc)

/-- The power the block computes, for an 11-bit exponent: "A model may compute it by square and multiply; the value is
the same" (R84, D21). -/
def gfPowFast (a : Elem) (n : Nat) : Elem := gfPowFrom a n 11 1

/-- `gf_inv` (R85): gf_pow(a, 2046). R85 leaves gf_inv(0) undefined; GF.INV faults before it would be evaluated (R92).
-/
def gfInv (a : Elem) : Elem := gfPowFast a 2046

end Sys2Proof.Machine
end

