-- ==== Sys2Proof/Machine/Polynomial.lean ====
section
/-! DEFINITION. Coefficients, the logical coefficient (R25), scan (R100) and Horner's scheme (R101, R123). -/

namespace Sys2Proof.Machine

/-- Coefficient `i` of a word of fourteen; zero outside 0..13, which no rule reads. -/
def coefAt (w : Coefs) (i : Nat) : Elem := w[i]?.getD 0

/-- The word with coefficient `i` replaced; unchanged when `i` is outside 0..13, which no rule writes. -/
def setCoefAt (w : Coefs) (i : Nat) (v : Elem) : Coefs := w.setIfInBounds i v

/-- The word whose coefficient `i` is `f i`. -/
def coefsOf (f : Nat → Elem) : Coefs :=
  #v[f 0, f 1, f 2, f 3, f 4, f 5, f 6, f 7, f 8, f 9, f 10, f 11, f 12, f 13]

/-- The logical coefficient L(k, i) of R25: the physical one up to the degree, zero elsewhere. -/
def logical (q : PolyReg) (i : Int) : Elem :=
  if 0 ≤ i ∧ i ≤ q.deg then coefAt q.c i.toNat else 0

/-- The loop of `scan`: the highest index below `n` of a nonzero coefficient, or -1 (R100). -/
def scanFrom (w : Coefs) : Nat → Int
  | 0 => -1
  | n + 1 => if coefAt w n ≠ 0 then n else scanFrom w n

/-- `scan` (R100), over all fourteen physical coefficients. -/
def scan (w : Coefs) : Int := scanFrom w Config.hw.n

/-- Horner's scheme over the coefficients `n - 1` down to 0 (R101, R123). -/
def hornerFrom (w : Coefs) (x : Elem) : Nat → Elem → Elem
  | 0, acc => acc
  | n + 1, acc => hornerFrom w x n (gfAdd (gfMul acc x) (coefAt w n))

/-- `horner` (R101): from the degree down; zero rounds when the degree is -1. -/
def horner (q : PolyReg) (x : Elem) : Elem := hornerFrom q.c x (q.deg + 1).toNat 0

/-- The register holding these coefficients, its degree set by scanning (R108, R110, R111, R125, R127). -/
def PolyReg.scanned (w : Coefs) : PolyReg := { c := w, deg := scan w }

/-- The coefficients of the product with (x - a): all read through L from the old state (R110). -/
def timesXMinus (q : PolyReg) (a : Elem) : Coefs :=
  coefsOf fun i => gfAdd (logical q ((i : Int) - 1)) (gfMul a (logical q i))

/-- The coefficients of the sum, all read through L (R111). -/
def sumCoefs (q r : PolyReg) : Coefs := coefsOf fun i => gfAdd (logical q i) (logical r i)

end Sys2Proof.Machine
end

