-- ==== Sys2Proof/Machine/BitSpace.lean ====
section
/-! DEFINITION. The bit space of a polynomial register (R42) and the two bit access functions (R140). -/

namespace Sys2Proof.Machine

/-- The coefficient that holds bit offset `pos` (R42). -/
def coefOfBit (pos : Nat) : Nat := pos / 11

/-- The bit of that coefficient, 10 its most significant (R42). -/
def bitOfBit (pos : Nat) : Nat := 10 - pos % 11

/-- The bit at offset `pos` of a word of fourteen coefficients (R42). -/
def bitAt (w : Coefs) (pos : Nat) : Bool := (coefAt w (coefOfBit pos)).getLsbD (bitOfBit pos)

/-- An element with one bit replaced. -/
def setElemBit (a : Elem) (b : Nat) (x : Bool) : Elem :=
  if x then a ||| (1#11 <<< b) else a &&& ~~~(1#11 <<< b)

/-- The word with the bit at offset `pos` replaced: only this bit of the coefficient changes (R140). -/
def setBitAt (w : Coefs) (pos : Nat) (x : Bool) : Coefs :=
  setCoefAt w (coefOfBit pos) (setElemBit (coefAt w (coefOfBit pos)) (bitOfBit pos) x)

/-- `BitsRead` (R140): the bit at `pos` becomes the most significant of the `n` bits read. -/
def bitsRead (w : Coefs) (pos : Nat) : Nat → Elem
  | 0 => 0
  | n + 1 => (bitsRead w pos n <<< 1) ||| BitVec.setWidth 11 (BitVec.ofBool (bitAt w (pos + n)))

/-- The rounds t = 0 to `t - 1` of `BitsWrite` for an `n`-bit value (R140). -/
def bitsWriteUpTo (w : Coefs) (pos n : Nat) (v : Elem) : Nat → Coefs
  | 0 => w
  | t + 1 => setBitAt (bitsWriteUpTo w pos n v t) (pos + t) (v.getLsbD (n - 1 - t))

/-- `BitsWrite` (R140): the most significant of the `n` bits of `v` goes to offset `pos`. -/
def bitsWrite (w : Coefs) (pos n : Nat) (v : Elem) : Coefs := bitsWriteUpTo w pos n v n

end Sys2Proof.Machine
end

