-- ==== Sys2Proof/Machine/Code.lean ====
section
/-! DEFINITION. The Reed-Solomon code (R120 to R125, R127, R131), written over the parameters as the document asks; the
hardware has K = 1, B = 0, ALPHA = 2 (R5). -/

namespace Sys2Proof.Machine

/-- root[j] = gf_pow(ALPHA, B + j) (R121). -/
def rootOf (P : Params) (j : Nat) : Elem := gfPow (BitVec.ofNat 11 P.alpha) (P.b + j)

/-- One factor (x - r) more: new g[i] = g[i-1] + r * g[i] (R122). -/
def timesFactor (g : List Elem) (r : Elem) : List Elem :=
  List.zipWith gfAdd (0 :: g) (g.map (gfMul r) ++ [0])

/-- The generator polynomial g, coefficients 0..K (R122). -/
def genPoly (P : Params) : List Elem := (List.range P.k).foldl (fun g j => timesFactor g (rootOf P j)) [1]

/-- `word_eval` (R123): Horner's scheme over all fourteen symbols. -/
def wordEval (w : Coefs) (x : Elem) : Elem := hornerFrom w x Config.hw.n 0

/-- The word is zero at every root of g (R124). -/
def isCodeword (P : Params) (w : Coefs) : Bool := (List.range P.k).all fun j => wordEval w (rootOf P j) == 0

/-- A check position 0..K-1 holds a nonzero symbol: RS.ENC's precondition is broken (R125). -/
def checkOccupied (P : Params) (w : Coefs) : Bool := (List.range P.k).any fun i => coefAt w i != 0

/-- One round of the division by g at position `i`: subtract f * g so that w[i] is cleared (R125). -/
def divideRound (P : Params) (G : Nat → Elem) (w : Coefs) (i : Nat) : Coefs :=
  let f := coefAt w i
  if f ≠ 0 then
    (List.range (P.k + 1)).foldl
      (fun w j => setCoefAt w (i - P.k + j) (gfAdd (coefAt w (i - P.k + j)) (gfMul f (G j)))) w
  else w

/-- The rounds at positions `K + n - 1` down to K (R125). -/
def divideFrom (P : Params) (G : Nat → Elem) : Nat → Coefs → Coefs
  | 0, w => w
  | n + 1, w => divideFrom P G n (divideRound P G w (P.k + n))

/-- The coefficients after encoding: the remainder in positions 0..K-1, the data symbols as they were (R125). -/
def encodeWord (P : Params) (G : Nat → Elem) (w : Coefs) : Coefs :=
  let r := divideFrom P G (P.n - P.k) w
  (List.range P.k).foldl (fun w i => setCoefAt w i (coefAt r i)) w

/-- The scan of R127 from candidate `v` on, `fuel` candidates long: the first that makes the word a codeword. -/
def searchFrom (P : Params) (w : Coefs) (epos : Nat) : Nat → Nat → Option Elem
  | 0, _ => none
  | fuel + 1, v =>
    if isCodeword P (setCoefAt w epos (BitVec.ofNat 11 v)) then some (BitVec.ofNat 11 v)
    else searchFrom P w epos fuel (v + 1)

/-- The value RS.COR finds for the erased position: v = 0 to 2047, ascending (R127). -/
def correctErasure (P : Params) (w : Coefs) (epos : Nat) : Option Elem := searchFrom P w epos 2048 0

/-- The direct solve of R131 for the root `r`: v = S / r^e with S the sum over the other positions. No command computes
it; R131 says that the scan finds exactly this value. -/
def directSolve (r : Elem) (w : Coefs) (epos : Nat) : Elem :=
  gfMul (((List.range Config.hw.n).filter (· ≠ epos)).foldl (fun s i => gfAdd s (gfMul (coefAt w i) (gfPow r i))) 0)
    (gfInv (gfPow r epos))

end Sys2Proof.Machine
end

