-- ==== Sys2Proof/Machine/Flags.lean ====
section
/-! DEFINITION. The fields of STATUS (R26): how each is read and how each is written, the rest of the register kept. -/

namespace Sys2Proof.Machine

/-- STATUS.OK, bit 0: the last RS.VFY accepted, or the last RS.COR found a value. -/
def statusOk (st : Half) : Bool := st.getLsbD 0

/-- STATUS.EQ, bit 1: the last GF.EQ compared equal. -/
def statusEq (st : Half) : Bool := st.getLsbD 1

/-- STATUS.FCODE, bits 7:4. -/
def statusFcode (st : Half) : BitVec 4 := st.extractLsb' 4 4

/-- STATUS.F, bit 8: the block is in the FAULTED state. -/
def statusF (st : Half) : Bool := st.getLsbD 8

/-- A flag as the bit the commands return in DATA. -/
def flagData (b : Bool) : Half := BitVec.setWidth 16 (BitVec.ofBool b)

/-- STATUS with OK written. -/
def withOk (st : Half) (b : Bool) : Half := (st &&& 0xFFFE#16) ||| flagData b

/-- STATUS with EQ written. -/
def withEq (st : Half) (b : Bool) : Half := (st &&& 0xFFFD#16) ||| (flagData b <<< 1)

/-- The fault's code (R160). -/
def FaultCode.code : FaultCode → BitVec 4
  | .illegal => 1
  | .operand => 2
  | .invzero => 3
  | .polyovf => 4
  | .encpre => 5
  | .bitrange => 6

/-- STATUS after fault entry: F is 1 and FCODE the code, OK and EQ keep their values (R169). -/
def withFault (st : Half) (f : FaultCode) : Half :=
  (st &&& 0xFE0F#16) ||| 0x0100#16 ||| (f.code.setWidth 16 <<< 4)

end Sys2Proof.Machine
end

