-- ==== Sys2Proof/Machine/Operands.lean ====
section
/-! DEFINITION. What IDX and IMM mean and which values are legal (R64, R65), and the degree code (R67). -/

namespace Sys2Proof.Machine

/-- IDX as a coefficient index: 0..13 (R65). -/
def coefIndexLegal (idx : Nat) : Bool := decide (idx < Config.hw.n)

/-- IDX as a generator coefficient index: 0..K (R65). -/
def genIndexLegal (idx : Nat) : Bool := decide (idx ≤ Config.hw.k)

/-- IDX as a control register number: 0..4 (R65). -/
def controlIndexLegal (idx : Nat) : Bool := decide (idx ≤ 4)

/-- IDX as a length LEN: 1..11 (R65). -/
def lengthLegal (len : Nat) : Bool := decide (1 ≤ len) && decide (len ≤ Config.hw.m)

/-- IMM as a bit offset: 0..154 (R64). -/
def offsetLegal (imm : Nat) : Bool := decide (imm ≤ Config.hw.nbits)

/-- IMM as a value of LEN bits: below 2^LEN (R64). -/
def valueFits (imm len : Nat) : Bool := decide (imm < 2 ^ len)

/-- IMM as a field element (R64): every 11-bit value is one. -/
def immElem (imm : Nat) : Elem := BitVec.ofNat 11 imm

/-- The degree an IMM stands for, none when the value is no degree code: 0..13 themselves, 31 for -1 (R64, R67). -/
def degreeOfImm (imm : Nat) : Option Int :=
  if imm < Config.hw.n then some imm else if imm = 31 then some (-1) else none

/-- A degree in DATA: 5-bit two's complement in bits 4:0, the higher bits zero (R67). -/
def degreeData (d : Int) : Half := (BitVec.ofInt 5 d).setWidth 16

end Sys2Proof.Machine
end

