-- ==== Sys2Proof/Machine/Ops.lean ====
section
/-! DEFINITION. The named operations over the state that the commands share: register access, the response (R66), taking
a fault (R169), the FAULTED test (R170) and reset (R33, R180), which is also the only return from a fault (R171). -/

namespace Sys2Proof.Machine

/-- `e[i]` (R7). -/
def State.elem (s : State) (r : EReg) : Elem := s.e[r]

/-- `e[i] <- v` (R7). -/
def State.setElem (s : State) (r : EReg) (v : Elem) : State := { s with e := s.e.set r v }

/-- `p[k]`, coefficients and degree (R7). -/
def State.poly (s : State) (k : PReg) : PolyReg := s.p[k]

/-- `p[k] <- q`, coefficients and degree (R7). -/
def State.setPoly (s : State) (k : PReg) (q : PolyReg) : State := { s with p := s.p.set k q }

/-- `p[k].c <- w`; the degree is not touched. -/
def State.setCoefs (s : State) (k : PReg) (w : Coefs) : State := s.setPoly k { s.poly k with c := w }

/-- `p[k].deg <- d`; no coefficient is touched (R7). -/
def State.setDeg (s : State) (k : PReg) (d : Int) : State := s.setPoly k { s.poly k with deg := d }

/-- STATUS <- st. -/
def State.setStatus (s : State) (st : Half) : State := { s with status := st }

/-- BITPOS <- pos (R27). -/
def State.setBitpos (s : State) (pos : Nat) : State := { s with bitpos := BitVec.ofNat 8 pos }

/-- G[j], zero above K (R29). -/
def State.gen (s : State) (j : Nat) : Elem := s.g[j]?.getD 0

/-- CR[n]: 0 STATUS, 1 BITPOS zero-extended, 2 CFG0, 3 CFG1, 4 CFG2 (R151); no other number is read. -/
def State.control (s : State) : Nat → Half
  | 0 => s.status
  | 1 => s.bitpos.setWidth 16
  | 2 => s.cfg0
  | 3 => s.cfg1
  | 4 => s.cfg2
  | _ => 0

/-- The response of an executed command: F = 0, FCODE = 0, DATA zero-extended (R66). -/
def dataResponse (data : Half) : Word := data.setWidth 32

/-- The response of a command that faulted or was refused: F = 1, FCODE, DATA = 0 (R66, R169). -/
def faultResponse (code : BitVec 4) : Word := 0x80000000#32 ||| (code.setWidth 32 <<< 24)

/-- One response word leaves the block (R66). -/
def State.answer (s : State) (r : Word) : State := { s with responses := s.responses ++ [r] }

/-- `DATA <- v`: the command is executed and answered (R66). -/
def State.respond (s : State) (data : Half) : State := s.answer (dataResponse data)

/-- `DATA <- v` for an element, zero-extended to 16 bits (R66). -/
def State.respondElem (s : State) (v : Elem) : State := s.respond (v.setWidth 16)

/-- FAULT ENTRY (R169): STATUS.F and STATUS.FCODE are written and the fault is answered; nothing else changes, nothing
is saved, and control goes nowhere. -/
def State.raise (s : State) (f : FaultCode) : State :=
  (s.setStatus (withFault s.status f)).answer (faultResponse f.code)

/-- A command presented in the FAULTED state that is not executed: answered REFUSED (15), no state changes (R167,
R170). -/
def State.refuse (s : State) : State := s.answer (faultResponse 15)

/-- The FAULTED test, which comes before every other (R168 step 1): `k` is what the command does in the RUNNING state.
-/
def State.whenRunning (s : State) (k : State) : State := if statusF s.status then s.refuse else k

/-- RESET, hard or soft (R33, R180): all state of the block to its reset value. What the host has still to present and
what it has been told are not state of the block. It is the only way out of the FAULTED state (R171). -/
def State.resetBlock (s : State) : State := { State.reset with port := s.port, responses := s.responses }

/-- `e[ed] <- v; DATA <- v`, the ending shared by the commands that write an element register. -/
def State.deliver (s : State) (rd : EReg) (v : Elem) : State := (s.setElem rd v).respondElem v

/-- `p[pd] <- q; DATA <- degree code of its degree`, the ending shared by PL.SETDEG, PL.MULXA and PL.ADD. -/
def State.deliverPoly (s : State) (pd : PReg) (q : PolyReg) : State := (s.setPoly pd q).respond (degreeData q.deg)

/-- An illegal word: ILLEGAL in the RUNNING state, refused in the FAULTED state (R68, R168). -/
def State.rejectWord (s : State) : State := s.whenRunning (s.raise .illegal)

end Sys2Proof.Machine
end

