-- ==== Sys2Proof/Machine/Bf.lean ====
section
/-! DEFINITION. The bit-field commands (R141 to R143). None reads or writes a degree, OK or EQ. -/

namespace Sys2Proof.Machine

/-- BITPOS + LEN stays within the bit space (R142, R143); the sum does not wrap. -/
def State.bitsInRange (s : State) (len : Nat) : Bool := decide (s.bitpos.toNat + len ≤ Config.hw.nbits)

/-- BF.SEEK imm (R141). -/
def execBfSeek (imm : Nat) (s : State) : Host.Outcome State Fault Refusal :=
  .next (s.whenRunning
    (if offsetLegal imm then (s.setBitpos imm).respond (BitVec.ofNat 16 imm) else s.raise .operand))

/-- BF.INS pd, len, imm (R142). The faults are tested in the rule's order: length, value, range. -/
def execBfIns (pd : PReg) (idx imm : Nat) (s : State) : Host.Outcome State Fault Refusal :=
  let pos := s.bitpos.toNat
  .next (s.whenRunning
    (if !lengthLegal idx then s.raise .operand
     else if !valueFits imm idx then s.raise .operand
     else if !s.bitsInRange idx then s.raise .bitrange
     else ((s.setCoefs pd (bitsWrite (s.poly pd).c pos idx (immElem imm))).setBitpos (pos + idx)).respond
        (BitVec.ofNat 16 (pos + idx))))

/-- BF.EXT ed, pd, len (R143). -/
def execBfExt (rd : EReg) (pd : PReg) (idx : Nat) (s : State) : Host.Outcome State Fault Refusal :=
  let pos := s.bitpos.toNat
  .next (s.whenRunning
    (if !lengthLegal idx then s.raise .operand
     else if !s.bitsInRange idx then s.raise .bitrange
     else
      let v := bitsRead (s.poly pd).c pos idx
      ((s.setElem rd v).setBitpos (pos + idx)).respondElem v))

end Sys2Proof.Machine
end

