-- ==== Sys2Proof/Machine/Gf.lean ====
section
/-! DEFINITION. The field commands (R88 to R94). -/

namespace Sys2Proof.Machine

/-- GF.LDI ed, imm (R88). -/
def execGfLdi (rd : EReg) (imm : Nat) (s : State) : Host.Outcome State Fault Refusal :=
  .next (s.whenRunning (s.deliver rd (immElem imm)))

/-- GF.MOV ed, ea (R89). -/
def execGfMov (rd ra : EReg) (s : State) : Host.Outcome State Fault Refusal :=
  .next (s.whenRunning (s.deliver rd (s.elem ra)))

/-- GF.ADD ed, ea, eb (R90). -/
def execGfAdd (rd ra rb : EReg) (s : State) : Host.Outcome State Fault Refusal :=
  .next (s.whenRunning (s.deliver rd (gfAdd (s.elem ra) (s.elem rb))))

/-- GF.MUL ed, ea, eb (R91). -/
def execGfMul (rd ra rb : EReg) (s : State) : Host.Outcome State Fault Refusal :=
  .next (s.whenRunning (s.deliver rd (gfMul (s.elem ra) (s.elem rb))))

/-- GF.INV ed, ea (R92): INVZERO when the source is 0. -/
def execGfInv (rd ra : EReg) (s : State) : Host.Outcome State Fault Refusal :=
  .next (s.whenRunning (if s.elem ra = 0 then s.raise .invzero else s.deliver rd (gfInv (s.elem ra))))

/-- GF.POW ed, ea, imm (R93): the exponent is IMM. -/
def execGfPow (rd ra : EReg) (imm : Nat) (s : State) : Host.Outcome State Fault Refusal :=
  .next (s.whenRunning (s.deliver rd (gfPowFast (s.elem ra) imm)))

/-- GF.EQ ea, eb (R94). -/
def execGfEq (ra rb : EReg) (s : State) : Host.Outcome State Fault Refusal :=
  let b := decide (s.elem ra = s.elem rb)
  .next (s.whenRunning ((s.setStatus (withEq s.status b)).respond (flagData b)))

end Sys2Proof.Machine
end

