-- ==== Sys2Proof/Machine/Pl.lean ====
section
/-! DEFINITION. The polynomial commands (R102 to R111). -/

namespace Sys2Proof.Machine

/-- PL.CLR pd (R102). -/
def execPlClr (pd : PReg) (s : State) : Host.Outcome State Fault Refusal :=
  .next (s.whenRunning ((s.setPoly pd PolyReg.empty).respond 0))

/-- PL.RDC ed, pd, idx (R103): the physical coefficient. -/
def execPlRdc (rd : EReg) (pd : PReg) (idx : Nat) (s : State) : Host.Outcome State Fault Refusal :=
  .next (s.whenRunning
    (if coefIndexLegal idx then s.deliver rd (coefAt (s.poly pd).c idx) else s.raise .operand))

/-- The write shared by PL.WRC and PL.WRCI: the degree stays as it is (R104, R105). -/
def State.writeCoef (s : State) (pd : PReg) (idx : Nat) (v : Elem) : State :=
  if coefIndexLegal idx then (s.setCoefs pd (setCoefAt (s.poly pd).c idx v)).respondElem v else s.raise .operand

/-- PL.WRC pd, idx, ea (R104). -/
def execPlWrc (pd : PReg) (idx : Nat) (ra : EReg) (s : State) : Host.Outcome State Fault Refusal :=
  .next (s.whenRunning (s.writeCoef pd idx (s.elem ra)))

/-- PL.WRCI pd, idx, imm (R105). -/
def execPlWrci (pd : PReg) (idx imm : Nat) (s : State) : Host.Outcome State Fault Refusal :=
  .next (s.whenRunning (s.writeCoef pd idx (immElem imm)))

/-- PL.RDDEG pd (R106). -/
def execPlRddeg (pd : PReg) (s : State) : Host.Outcome State Fault Refusal :=
  .next (s.whenRunning (s.respond (degreeData (s.poly pd).deg)))

/-- PL.WRDEG pd, imm (R107): no coefficient is changed or checked. -/
def execPlWrdeg (pd : PReg) (imm : Nat) (s : State) : Host.Outcome State Fault Refusal :=
  .next (s.whenRunning
    (match degreeOfImm imm with
     | some d => (s.setDeg pd d).respond (BitVec.ofNat 16 imm)
     | none => s.raise .operand))

/-- PL.SETDEG pd (R108). -/
def execPlSetdeg (pd : PReg) (s : State) : Host.Outcome State Fault Refusal :=
  .next (s.whenRunning (s.deliverPoly pd (PolyReg.scanned (s.poly pd).c)))

/-- PL.EVAL ed, pd, ea (R109). -/
def execPlEval (rd : EReg) (pd : PReg) (ra : EReg) (s : State) : Host.Outcome State Fault Refusal :=
  .next (s.whenRunning (s.deliver rd (horner (s.poly pd) (s.elem ra))))

/-- PL.MULXA pd, ea (R110): POLYOVF at degree N - 1. -/
def execPlMulxa (pd : PReg) (ra : EReg) (s : State) : Host.Outcome State Fault Refusal :=
  .next (s.whenRunning
    (if (s.poly pd).deg = (Config.hw.n : Int) - 1 then s.raise .polyovf
     else s.deliverPoly pd (PolyReg.scanned (timesXMinus (s.poly pd) (s.elem ra)))))

/-- PL.ADD pd, ps (R111). -/
def execPlAdd (pd ps : PReg) (s : State) : Host.Outcome State Fault Refusal :=
  .next (s.whenRunning (s.deliverPoly pd (PolyReg.scanned (sumCoefs (s.poly pd) (s.poly ps)))))

end Sys2Proof.Machine
end

