-- ==== Sys2Proof/Machine/Rs.lean ====
section
/-! DEFINITION. The Reed-Solomon commands (R125 to R128). They read the fourteen physical coefficients and not the
degree (R124). -/

namespace Sys2Proof.Machine

/-- RS.ENC pd (R125): ENCPRE when a check position is nonzero on entry. -/
def execRsEnc (pd : PReg) (s : State) : Host.Outcome State Fault Refusal :=
  let w := (s.poly pd).c
  .next (s.whenRunning
    (if checkOccupied Config.hw w then s.raise .encpre
     else
      let w' := encodeWord Config.hw s.gen w
      (s.setPoly pd (PolyReg.scanned w')).respondElem (coefAt w' 0)))

/-- RS.VFY pd (R126). -/
def execRsVfy (pd : PReg) (s : State) : Host.Outcome State Fault Refusal :=
  let ok := isCodeword Config.hw (s.poly pd).c
  .next (s.whenRunning ((s.setStatus (withOk s.status ok)).respond (flagData ok)))

/-- RS.COR ed, pd, idx (R127). The case in which no value is found cannot happen with K = 1 and is kept as the rule
has it. -/
def execRsCor (rd : EReg) (pd : PReg) (idx : Nat) (s : State) : Host.Outcome State Fault Refusal :=
  .next (s.whenRunning
    (if coefIndexLegal idx then
      match correctErasure Config.hw (s.poly pd).c idx with
      | some v =>
        (((s.setPoly pd (PolyReg.scanned (setCoefAt (s.poly pd).c idx v))).setElem rd v).setStatus
          (withOk s.status true)).respondElem v
      | none => (s.setStatus (withOk s.status false)).respond 0
     else s.raise .operand))

/-- RS.GEN ed, idx (R128). -/
def execRsGen (rd : EReg) (idx : Nat) (s : State) : Host.Outcome State Fault Refusal :=
  .next (s.whenRunning (if genIndexLegal idx then s.deliver rd (s.gen idx) else s.raise .operand))

end Sys2Proof.Machine
end

