-- ==== Sys2Proof/Machine/Sys.lean ====
section
/-! DEFINITION. The system commands (R150 to R152). -/

namespace Sys2Proof.Machine

/-- SYS.NOP (R150). -/
def execSysNop (s : State) : Host.Outcome State Fault Refusal :=
  .next (s.whenRunning (s.respond 0))

/-- SYS.RDCR cr (R151): executed in the FAULTED state too when the register exists (R170). -/
def execSysRdcr (idx : Nat) (s : State) : Host.Outcome State Fault Refusal :=
  .next (if controlIndexLegal idx then s.respond (s.control idx) else s.whenRunning (s.raise .operand))

/-- SYS.RST (R152): executed in both states. -/
def execSysRst (s : State) : Host.Outcome State Fault Refusal :=
  .next (s.resetBlock.respond 0)

end Sys2Proof.Machine
end

