-- ==== Sys2Proof/Syntax.lean ====
section
/-! DEFINITION. The 27 commands of R63, one constructor per row of spec/opcode_table.json. Register numbers are typed by
their range (they have no illegal value, R65); IDX and IMM are plain unsigned numbers, as R64 and R65 take them. -/

namespace Sys2Proof

/-- A command with its operands, in the order of R63's assembler form. `idx` is the 4-bit field IDX and `imm` the
11-bit field IMM of R61; WellFormed says so. The five pseudo-instructions of R71 are other spellings of these. -/
inductive Instr where
  /-- SYS.NOP (R150). -/
  | sysNop
  /-- SYS.RDCR cr (R151); the control register number is IDX. -/
  | sysRdcr (idx : Nat)
  /-- SYS.RST (R152). -/
  | sysRst
  /-- GF.LDI ed, imm (R88). -/
  | gfLdi (rd : EReg) (imm : Nat)
  /-- GF.MOV ed, ea (R89). -/
  | gfMov (rd ra : EReg)
  /-- GF.ADD ed, ea, eb (R90). -/
  | gfAdd (rd ra rb : EReg)
  /-- GF.MUL ed, ea, eb (R91). -/
  | gfMul (rd ra rb : EReg)
  /-- GF.INV ed, ea (R92). -/
  | gfInv (rd ra : EReg)
  /-- GF.POW ed, ea, imm (R93). -/
  | gfPow (rd ra : EReg) (imm : Nat)
  /-- GF.EQ ea, eb (R94). -/
  | gfEq (ra rb : EReg)
  /-- PL.CLR pd (R102). -/
  | plClr (pd : PReg)
  /-- PL.RDC ed, pd, idx (R103). -/
  | plRdc (rd : EReg) (pd : PReg) (idx : Nat)
  /-- PL.WRC pd, idx, ea (R104). -/
  | plWrc (pd : PReg) (idx : Nat) (ra : EReg)
  /-- PL.WRCI pd, idx, imm (R105). -/
  | plWrci (pd : PReg) (idx imm : Nat)
  /-- PL.RDDEG pd (R106). -/
  | plRddeg (pd : PReg)
  /-- PL.WRDEG pd, imm (R107); IMM is a degree code (R67). -/
  | plWrdeg (pd : PReg) (imm : Nat)
  /-- PL.SETDEG pd (R108). -/
  | plSetdeg (pd : PReg)
  /-- PL.EVAL ed, pd, ea (R109). -/
  | plEval (rd : EReg) (pd : PReg) (ra : EReg)
  /-- PL.MULXA pd, ea (R110). -/
  | plMulxa (pd : PReg) (ra : EReg)
  /-- PL.ADD pd, ps (R111). -/
  | plAdd (pd ps : PReg)
  /-- RS.ENC pd (R125). -/
  | rsEnc (pd : PReg)
  /-- RS.VFY pd (R126). -/
  | rsVfy (pd : PReg)
  /-- RS.COR ed, pd, idx (R127). -/
  | rsCor (rd : EReg) (pd : PReg) (idx : Nat)
  /-- RS.GEN ed, idx (R128). -/
  | rsGen (rd : EReg) (idx : Nat)
  /-- BF.SEEK imm (R141). -/
  | bfSeek (imm : Nat)
  /-- BF.INS pd, len, imm (R142); the length is IDX. -/
  | bfIns (pd : PReg) (idx imm : Nat)
  /-- BF.EXT ed, pd, len (R143); the length is IDX. -/
  | bfExt (rd : EReg) (pd : PReg) (idx : Nat)
  deriving DecidableEq, Repr

end Sys2Proof
end

