-- ==== Sys2Proof/Machine/Dispatch.lean ====
section
/-! DEFINITION. One arm per command: exec answers what the command does to the block, its FAULTED test included (R72). -/

namespace Sys2Proof.Machine

def exec (i : Instr) (s : State) : Host.Outcome State Fault Refusal :=
  match i with
  | .sysNop => Sys2Proof.Machine.execSysNop s
  | .sysRdcr idx => Sys2Proof.Machine.execSysRdcr idx s
  | .sysRst => Sys2Proof.Machine.execSysRst s
  | .gfLdi rd imm => Sys2Proof.Machine.execGfLdi rd imm s
  | .gfMov rd ra => Sys2Proof.Machine.execGfMov rd ra s
  | .gfAdd rd ra rb => Sys2Proof.Machine.execGfAdd rd ra rb s
  | .gfMul rd ra rb => Sys2Proof.Machine.execGfMul rd ra rb s
  | .gfInv rd ra => Sys2Proof.Machine.execGfInv rd ra s
  | .gfPow rd ra imm => Sys2Proof.Machine.execGfPow rd ra imm s
  | .gfEq ra rb => Sys2Proof.Machine.execGfEq ra rb s
  | .plClr pd => Sys2Proof.Machine.execPlClr pd s
  | .plRdc rd pd idx => Sys2Proof.Machine.execPlRdc rd pd idx s
  | .plWrc pd idx ra => Sys2Proof.Machine.execPlWrc pd idx ra s
  | .plWrci pd idx imm => Sys2Proof.Machine.execPlWrci pd idx imm s
  | .plRddeg pd => Sys2Proof.Machine.execPlRddeg pd s
  | .plWrdeg pd imm => Sys2Proof.Machine.execPlWrdeg pd imm s
  | .plSetdeg pd => Sys2Proof.Machine.execPlSetdeg pd s
  | .plEval rd pd ra => Sys2Proof.Machine.execPlEval rd pd ra s
  | .plMulxa pd ra => Sys2Proof.Machine.execPlMulxa pd ra s
  | .plAdd pd ps => Sys2Proof.Machine.execPlAdd pd ps s
  | .rsEnc pd => Sys2Proof.Machine.execRsEnc pd s
  | .rsVfy pd => Sys2Proof.Machine.execRsVfy pd s
  | .rsCor rd pd idx => Sys2Proof.Machine.execRsCor rd pd idx s
  | .rsGen rd idx => Sys2Proof.Machine.execRsGen rd idx s
  | .bfSeek imm => Sys2Proof.Machine.execBfSeek imm s
  | .bfIns pd idx imm => Sys2Proof.Machine.execBfIns pd idx imm s
  | .bfExt rd pd idx => Sys2Proof.Machine.execBfExt rd pd idx s

end Sys2Proof.Machine
end

