-- ==== Sys2Proof/WellFormed.lean ====
section
/-! DEFINITION. Which terms of Instr a command word can spell: IDX is a 4-bit number and IMM an 11-bit number (R61).
The narrower ranges of R64 and R65 are not part of this: a word that breaks one is a legal word, and executing it raises
the OPERAND fault (R162). -/

namespace Sys2Proof

/-- IDX fits its 4-bit field (R61, R65). -/
abbrev IdxFits (idx : Nat) : Prop := idx < 16

/-- IMM fits its 11-bit field (R61, R64). -/
abbrev ImmFits (imm : Nat) : Prop := imm < 2048

/-- The term is one that a command word spells. -/
def WellFormed : Instr → Bool
  | .sysNop => true
  | .sysRdcr idx => decide (IdxFits idx)
  | .sysRst => true
  | .gfLdi _ imm => decide (ImmFits imm)
  | .gfMov _ _ => true
  | .gfAdd _ _ _ => true
  | .gfMul _ _ _ => true
  | .gfInv _ _ => true
  | .gfPow _ _ imm => decide (ImmFits imm)
  | .gfEq _ _ => true
  | .plClr _ => true
  | .plRdc _ _ idx => decide (IdxFits idx)
  | .plWrc _ idx _ => decide (IdxFits idx)
  | .plWrci _ idx imm => decide (IdxFits idx) && decide (ImmFits imm)
  | .plRddeg _ => true
  | .plWrdeg _ imm => decide (ImmFits imm)
  | .plSetdeg _ => true
  | .plEval _ _ _ => true
  | .plMulxa _ _ => true
  | .plAdd _ _ => true
  | .rsEnc _ => true
  | .rsVfy _ => true
  | .rsCor _ _ idx => decide (IdxFits idx)
  | .rsGen _ idx => decide (IdxFits idx)
  | .bfSeek imm => decide (ImmFits imm)
  | .bfIns _ idx imm => decide (IdxFits idx) && decide (ImmFits imm)
  | .bfExt _ _ idx => decide (IdxFits idx)

end Sys2Proof
end

