-- ==== Sys2Proof/Decode.lean ====
section
/-! DEFINITION. The command word: its fields (R61), the decoder (R62, R63, R68, R72) and, after it, the encoder. -/

namespace Sys2Proof

/-- A field of the command word other than OPC (R61). -/
inductive Field where
  | rd | ra | rb | pd | ps | idx | imm
  deriving DecidableEq, Repr

/-- The lowest bit of the field and its width (R61). -/
def Field.place : Field → Nat × Nat
  | .rd => (23, 3)
  | .ra => (20, 3)
  | .rb => (17, 3)
  | .pd => (16, 1)
  | .ps => (15, 1)
  | .idx => (11, 4)
  | .imm => (0, 11)

/-- All the fields of R61 other than OPC. -/
def Field.all : List Field := [.rd, .ra, .rb, .pd, .ps, .idx, .imm]

/-- Bits `lo + width - 1` down to `lo` of a word, as an unsigned number (R6). -/
def wordBits (w : Word) (lo width : Nat) : Nat := w.toNat / 2 ^ lo % 2 ^ width

/-- OPC, bits 31:26 (R61). -/
def opcodeOf (w : Word) : Nat := wordBits w 26 6

/-- The value of a field in a word, unsigned (R61, R64, R65). -/
def fieldOf (w : Word) (f : Field) : Nat := wordBits w f.place.1 f.place.2

/-- The element register number in field RD, RA or RB. -/
def eregOf (w : Word) (f : Field) : EReg := Fin.ofNat 8 (fieldOf w f)

/-- The polynomial register number in field PD or PS. -/
def pregOf (w : Word) (f : Field) : PReg := Fin.ofNat 2 (fieldOf w f)

/-- Why a word is illegal (R68): both reasons raise the ILLEGAL fault in the RUNNING state. -/
inductive DecodeError where
  /-- OPC is not one of the 27 values of R63. -/
  | unassignedOpcode (opc : Nat)
  /-- OPC is listed, and a field that its command does not use is nonzero (R62). -/
  | unusedFieldNonzero (opc : Nat)
  deriving DecidableEq, Repr

/-- Every field outside `used` is zero in the word (R62: "Every field a command does not use must be zero"). -/
def unusedZero (w : Word) (used : List Field) : Bool :=
  Field.all.all fun f => used.contains f || fieldOf w f == 0

/-- Step (3) of R72: the row's instruction when the unused fields are zero, else illegal. -/
def decodeRow (w : Word) (used : List Field) (i : Instr) : Except DecodeError Instr :=
  if unusedZero w used then .ok i else .error (.unusedFieldNonzero (opcodeOf w))

/-- The decoder of R72, total on words: each row of R63 with the fields it uses. -/
def decode (w : Word) : Except DecodeError Instr :=
  match opcodeOf w with
  | 0x00 => decodeRow w [] .sysNop
  | 0x01 => decodeRow w [.idx] (.sysRdcr (fieldOf w .idx))
  | 0x02 => decodeRow w [] .sysRst
  | 0x08 => decodeRow w [.rd, .imm] (.gfLdi (eregOf w .rd) (fieldOf w .imm))
  | 0x09 => decodeRow w [.rd, .ra] (.gfMov (eregOf w .rd) (eregOf w .ra))
  | 0x0A => decodeRow w [.rd, .ra, .rb] (.gfAdd (eregOf w .rd) (eregOf w .ra) (eregOf w .rb))
  | 0x0B => decodeRow w [.rd, .ra, .rb] (.gfMul (eregOf w .rd) (eregOf w .ra) (eregOf w .rb))
  | 0x0C => decodeRow w [.rd, .ra] (.gfInv (eregOf w .rd) (eregOf w .ra))
  | 0x0D => decodeRow w [.rd, .ra, .imm] (.gfPow (eregOf w .rd) (eregOf w .ra) (fieldOf w .imm))
  | 0x0E => decodeRow w [.ra, .rb] (.gfEq (eregOf w .ra) (eregOf w .rb))
  | 0x10 => decodeRow w [.pd] (.plClr (pregOf w .pd))
  | 0x11 => decodeRow w [.rd, .pd, .idx] (.plRdc (eregOf w .rd) (pregOf w .pd) (fieldOf w .idx))
  | 0x12 => decodeRow w [.pd, .idx, .ra] (.plWrc (pregOf w .pd) (fieldOf w .idx) (eregOf w .ra))
  | 0x13 => decodeRow w [.pd, .idx, .imm] (.plWrci (pregOf w .pd) (fieldOf w .idx) (fieldOf w .imm))
  | 0x14 => decodeRow w [.pd] (.plRddeg (pregOf w .pd))
  | 0x15 => decodeRow w [.pd, .imm] (.plWrdeg (pregOf w .pd) (fieldOf w .imm))
  | 0x16 => decodeRow w [.pd] (.plSetdeg (pregOf w .pd))
  | 0x17 => decodeRow w [.rd, .pd, .ra] (.plEval (eregOf w .rd) (pregOf w .pd) (eregOf w .ra))
  | 0x18 => decodeRow w [.pd, .ra] (.plMulxa (pregOf w .pd) (eregOf w .ra))
  | 0x19 => decodeRow w [.pd, .ps] (.plAdd (pregOf w .pd) (pregOf w .ps))
  | 0x20 => decodeRow w [.pd] (.rsEnc (pregOf w .pd))
  | 0x21 => decodeRow w [.pd] (.rsVfy (pregOf w .pd))
  | 0x22 => decodeRow w [.rd, .pd, .idx] (.rsCor (eregOf w .rd) (pregOf w .pd) (fieldOf w .idx))
  | 0x23 => decodeRow w [.rd, .idx] (.rsGen (eregOf w .rd) (fieldOf w .idx))
  | 0x28 => decodeRow w [.imm] (.bfSeek (fieldOf w .imm))
  | 0x29 => decodeRow w [.pd, .idx, .imm] (.bfIns (pregOf w .pd) (fieldOf w .idx) (fieldOf w .imm))
  | 0x2A => decodeRow w [.rd, .pd, .idx] (.bfExt (eregOf w .rd) (pregOf w .pd) (fieldOf w .idx))
  | opc => .error (.unassignedOpcode opc)

/-- The word that the low `nbits` bits of `w` make, every higher bit zero. -/
def tableWord (nbits w : Nat) : Word := BitVec.ofNat 32 (w % 2 ^ nbits)

/-- What the decoder reads from an instruction whose bits are `w` (bit 0 the least significant), for the host. The block
takes the word in parallel (R44), so there is no byte order to undo. -/
def decodeTableWord (nbits w : Nat) : Option Instr :=
  match decode (tableWord nbits w) with
  | .ok i => some i
  | .error _ => none

/-- The operands of a command word, one number per field of R61; a field a command does not use is 0 (R62). -/
structure Operands where
  rd : Nat := 0
  ra : Nat := 0
  rb : Nat := 0
  pd : Nat := 0
  ps : Nat := 0
  idx : Nat := 0
  imm : Nat := 0
  deriving DecidableEq, Repr

/-- R61: word = OPC<<26 | RD<<23 | RA<<20 | RB<<17 | PD<<16 | PS<<15 | IDX<<11 | IMM. The fields do not overlap, so the
sum is the or. -/
def packWord (opc : Nat) (o : Operands) : Word :=
  BitVec.ofNat 32 (opc * 2 ^ 26 + o.rd * 2 ^ 23 + o.ra * 2 ^ 20 + o.rb * 2 ^ 17 + o.pd * 2 ^ 16 + o.ps * 2 ^ 15
    + o.idx * 2 ^ 11 + o.imm)

/-- The opcode of R63. -/
def Instr.opcode : Instr → Nat
  | .sysNop => 0x00
  | .sysRdcr _ => 0x01
  | .sysRst => 0x02
  | .gfLdi _ _ => 0x08
  | .gfMov _ _ => 0x09
  | .gfAdd _ _ _ => 0x0A
  | .gfMul _ _ _ => 0x0B
  | .gfInv _ _ => 0x0C
  | .gfPow _ _ _ => 0x0D
  | .gfEq _ _ => 0x0E
  | .plClr _ => 0x10
  | .plRdc _ _ _ => 0x11
  | .plWrc _ _ _ => 0x12
  | .plWrci _ _ _ => 0x13
  | .plRddeg _ => 0x14
  | .plWrdeg _ _ => 0x15
  | .plSetdeg _ => 0x16
  | .plEval _ _ _ => 0x17
  | .plMulxa _ _ => 0x18
  | .plAdd _ _ => 0x19
  | .rsEnc _ => 0x20
  | .rsVfy _ => 0x21
  | .rsCor _ _ _ => 0x22
  | .rsGen _ _ => 0x23
  | .bfSeek _ => 0x28
  | .bfIns _ _ _ => 0x29
  | .bfExt _ _ _ => 0x2A

/-- Which field each operand stands in (R63, column "fields used"). -/
def Instr.operands : Instr → Operands
  | .sysNop => {}
  | .sysRdcr idx => { idx := idx }
  | .sysRst => {}
  | .gfLdi rd imm => { rd := rd, imm := imm }
  | .gfMov rd ra => { rd := rd, ra := ra }
  | .gfAdd rd ra rb => { rd := rd, ra := ra, rb := rb }
  | .gfMul rd ra rb => { rd := rd, ra := ra, rb := rb }
  | .gfInv rd ra => { rd := rd, ra := ra }
  | .gfPow rd ra imm => { rd := rd, ra := ra, imm := imm }
  | .gfEq ra rb => { ra := ra, rb := rb }
  | .plClr pd => { pd := pd }
  | .plRdc rd pd idx => { rd := rd, pd := pd, idx := idx }
  | .plWrc pd idx ra => { pd := pd, idx := idx, ra := ra }
  | .plWrci pd idx imm => { pd := pd, idx := idx, imm := imm }
  | .plRddeg pd => { pd := pd }
  | .plWrdeg pd imm => { pd := pd, imm := imm }
  | .plSetdeg pd => { pd := pd }
  | .plEval rd pd ra => { rd := rd, pd := pd, ra := ra }
  | .plMulxa pd ra => { pd := pd, ra := ra }
  | .plAdd pd ps => { pd := pd, ps := ps }
  | .rsEnc pd => { pd := pd }
  | .rsVfy pd => { pd := pd }
  | .rsCor rd pd idx => { rd := rd, pd := pd, idx := idx }
  | .rsGen rd idx => { rd := rd, idx := idx }
  | .bfSeek imm => { imm := imm }
  | .bfIns pd idx imm => { pd := pd, idx := idx, imm := imm }
  | .bfExt rd pd idx => { rd := rd, pd := pd, idx := idx }

/-- The command word of an instruction (R61, R63). -/
def encode (i : Instr) : Word := packWord i.opcode i.operands

end Sys2Proof
end

