-- ==== Sys2Proof/Machine/Port.lean ====
section
/-! DEFINITION. What the step finds at the command port. The block fetches no instructions (R30): the next command is the
word the host presents. -/

namespace Sys2Proof.Machine

/-- What stands at the command port, with the state in which the event has been taken from the port. -/
inductive Presented where
  /-- Nothing is presented: the block does nothing (R178). -/
  | idle
  /-- A legal command word (R72). -/
  | instr (i : Instr) (s : State)
  /-- An illegal command word (R68). -/
  | illegal (s : State)
  /-- The hard reset, with or without a command that it cuts (R180). -/
  | reset (s : State)
  deriving DecidableEq, Repr

/-- Take the next event from the command port and decode the word it carries. -/
def State.takeEvent (s : State) : Presented :=
  match s.port with
  | [] => .idle
  | .command w :: rest =>
    match decode w with
    | .ok i => .instr i { s with port := rest }
    | .error _ => .illegal { s with port := rest }
  | .hardReset :: rest => .reset { s with port := rest }
  | .cutCommand _ :: rest => .reset { s with port := rest }

/-- The host presents the word `w` next, before everything it has still to present. -/
def State.present (s : State) (w : Word) : State := { s with port := .command w :: s.port }

end Sys2Proof.Machine
end

