-- ==== Sys2Proof/Machine/Step.lean ====
section
/-! DEFINITION. One step of the block: one event at the command port, wholly carried out (R8, R49, R72). -/

namespace Sys2Proof.Machine

/-- One event: a legal word runs its command, an illegal one is rejected, a hard reset resets without a response (R180),
and with nothing presented nothing changes (R178). -/
def step (s : State) : Host.Outcome State Fault Refusal :=
  match s.takeEvent with
  | .idle => .next s
  | .instr i s' => exec i s'
  | .illegal s' => .next s'.rejectWord
  | .reset s' => .next s'.resetBlock

/-- The state in which the host presents the instruction of the opcode table's bits `w` next. -/
def State.withFetchWord (s : State) (nbits w : Nat) : State := s.present (tableWord nbits w)

end Sys2Proof.Machine
end

