-- ==== Sys2Proof/Safety.lean ====
section
/-! DEFINITION. What counts as a legal state, a normalised register and a run that has gone well, in the terms the
statements use. -/

namespace Sys2Proof.Machine

/-- F = 0: the RUNNING state (R31). -/
abbrev State.Running (s : State) : Prop := statusF s.status = false

/-- F = 1: the FAULTED state (R31). -/
abbrev State.Faulted (s : State) : Prop := statusF s.status = true

/-- STATUS as R26 has it: bits 3:2 and 15:9 zero, FCODE 0 while F = 0, FCODE one of 1..6 while F = 1 (R160). -/
abbrev StatusLegal (st : Half) : Prop :=
  st.extractLsb' 2 2 = 0 ∧ st.extractLsb' 9 7 = 0 ∧
  (statusF st = false → statusFcode st = 0) ∧
  (statusF st = true → 1 ≤ (statusFcode st).toNat ∧ (statusFcode st).toNat ≤ 6)

/-- A degree is one of the fifteen values -1..13 (R23). -/
abbrev DegreeLegal (d : Int) : Prop := -1 ≤ d ∧ d ≤ 13

/-- CFG0, CFG1, CFG2 and G hold this hardware's constants (R28, R29). -/
abbrev State.ConstantsHold (s : State) : Prop :=
  s.cfg0 = 0x02EB#16 ∧ s.cfg1 = 0x0805#16 ∧ s.cfg2 = 0x0002#16 ∧ s.g = #v[1#11, 1#11]

/-- The invariant of the block: STATUS, the degrees, BITPOS (0..154, R27) and the constants hold legal values. -/
abbrev State.Inv (s : State) : Prop :=
  StatusLegal s.status ∧ (∀ k : PReg, DegreeLegal (s.poly k).deg) ∧ s.bitpos.toNat ≤ 154 ∧ s.ConstantsHold

/-- A normalised polynomial register (R24): (a) zero above the degree, (b) nonzero at the degree unless that is -1. -/
abbrev Normalised (q : PolyReg) : Prop :=
  (∀ i : Nat, i < 14 → q.deg < (i : Int) → coefAt q.c i = 0) ∧
  (q.deg = -1 ∨ (0 ≤ q.deg ∧ q.deg ≤ 13 ∧ coefAt q.c q.deg.toNat ≠ 0))

/-- Bit F of a response (R66). -/
def responseF (r : Word) : Bool := r.getLsbD 31

/-- FCODE of a response (R66). -/
def responseFcode (r : Word) : Nat := (r.extractLsb' 24 4).toNat

/-- DATA of a response (R66). -/
def responseData (r : Word) : Half := r.extractLsb' 0 16

/-- No response so far had F = 1: the run has gone well (R194). -/
abbrev State.WentWell (s : State) : Prop := ∀ r ∈ s.responses, responseF r = false

/-- The event resets the block: SYS.RST's word (R152) or the hard reset (R180). -/
def PortEvent.resets : PortEvent → Bool
  | .command w => w == 0x08000000#32
  | .hardReset => true
  | .cutCommand _ => true

/-- Two states in which the block itself is the same, whatever stands at the ports (R20). -/
abbrev SameBlock (s t : State) : Prop :=
  t.e = s.e ∧ t.p = s.p ∧ t.status = s.status ∧ t.bitpos = s.bitpos ∧
  t.cfg0 = s.cfg0 ∧ t.cfg1 = s.cfg1 ∧ t.cfg2 = s.cfg2 ∧ t.g = s.g

/-- The read-only registers are unchanged (R28, R29). -/
abbrev SameConstants (s t : State) : Prop :=
  t.cfg0 = s.cfg0 ∧ t.cfg1 = s.cfg1 ∧ t.cfg2 = s.cfg2 ∧ t.g = s.g

end Sys2Proof.Machine
end

