-- ==== Sys2Proof/Certificates/Slice0/Obligations.lean ====
section
/-! DEFINITION. The statements for the provers, and the words they are written in. No statement is about a program:
each is about the arithmetic, one command, one step, or every run. -/

namespace Sys2Proof.Claims

open Sys2Proof.Machine

/-- The field sum f 0 + ... + f (n - 1). -/
def gfSum (f : Nat → Elem) : Nat → Elem
  | 0 => 0
  | n + 1 => gfAdd (gfSum f n) (f n)

/-- The xor of the symbols of a word at the positions that `keep` selects. -/
def xorWhere (w : Coefs) (keep : Nat → Bool) : Elem := gfSum (fun i => if keep i then coefAt w i else 0) 14

/-- The code of a degree (R67): itself for 0..13, 31 for -1. -/
def degreeCode (d : Int) : Half := if d = -1 then 31#16 else BitVec.ofNat 16 d.toNat

/-- The rows of R63: opcode, match, mask. -/
def opcodeTable : List (Nat × Word × Word) :=
  [(0x00, 0x00000000#32, 0xFFFFFFFF#32), (0x01, 0x04000000#32, 0xFFFF87FF#32), (0x02, 0x08000000#32, 0xFFFFFFFF#32),
   (0x08, 0x20000000#32, 0xFC7FF800#32), (0x09, 0x24000000#32, 0xFC0FFFFF#32), (0x0A, 0x28000000#32, 0xFC01FFFF#32),
   (0x0B, 0x2C000000#32, 0xFC01FFFF#32), (0x0C, 0x30000000#32, 0xFC0FFFFF#32), (0x0D, 0x34000000#32, 0xFC0FF800#32)] ++
  [(0x0E, 0x38000000#32, 0xFF81FFFF#32), (0x10, 0x40000000#32, 0xFFFEFFFF#32), (0x11, 0x44000000#32, 0xFC7E87FF#32),
   (0x12, 0x48000000#32, 0xFF8E87FF#32), (0x13, 0x4C000000#32, 0xFFFE8000#32), (0x14, 0x50000000#32, 0xFFFEFFFF#32),
   (0x15, 0x54000000#32, 0xFFFEF800#32), (0x16, 0x58000000#32, 0xFFFEFFFF#32), (0x17, 0x5C000000#32, 0xFC0EFFFF#32)] ++
  [(0x18, 0x60000000#32, 0xFF8EFFFF#32), (0x19, 0x64000000#32, 0xFFFE7FFF#32), (0x20, 0x80000000#32, 0xFFFEFFFF#32),
   (0x21, 0x84000000#32, 0xFFFEFFFF#32), (0x22, 0x88000000#32, 0xFC7E87FF#32), (0x23, 0x8C000000#32, 0xFC7F87FF#32),
   (0x28, 0xA0000000#32, 0xFFFFF800#32), (0x29, 0xA4000000#32, 0xFFFE8000#32), (0x2A, 0xA8000000#32, 0xFC7E87FF#32)]

/-- The word matches a row of R63. -/
def Matches (w : Word) (row : Nat × Word × Word) : Prop := w &&& row.2.2 = row.2.1

/-- A legal SYS.RDCR word whose register exists (R170). -/
def ReadsControl (w : Word) : Prop := w &&& 0xFFFF87FF#32 = 0x04000000#32 ∧ (w.extractLsb' 11 4).toNat ≤ 4

/-- `t` is `s` with one response more, F = 0 and this DATA (R66); the command port and the constants are as they were.
-/
abbrev Answered (s t : State) (data : Half) : Prop :=
  t.responses = s.responses ++ [data.setWidth 32] ∧ t.port = s.port ∧ SameConstants s t

/-- `e[rd]` is the only element register written, with `v`. -/
abbrev WritesElem (s t : State) (rd : EReg) (v : Elem) : Prop :=
  t.elem rd = v ∧ ∀ r, r ≠ rd → t.elem r = s.elem r

/-- All that a command does whose one result is `v` in `e[rd]`: it is written and returned, nothing else changes. -/
abbrev ElemResult (s t : State) (rd : EReg) (v : Elem) : Prop :=
  WritesElem s t rd v ∧ t.p = s.p ∧ t.status = s.status ∧ t.bitpos = s.bitpos ∧ Answered s t (v.setWidth 16)

/-- `p[pd]` is the only register that may have changed; DATA is returned. -/
abbrev OnlyPoly (s t : State) (pd : PReg) (data : Half) : Prop :=
  (∀ k, k ≠ pd → t.poly k = s.poly k) ∧ t.e = s.e ∧ t.status = s.status ∧ t.bitpos = s.bitpos ∧ Answered s t data

/-- Fault entry with code `c` (R169): F and FCODE written, the fault answered, everything else as it was. -/
abbrev FaultsWith (s t : State) (c : Nat) : Prop :=
  t.e = s.e ∧ t.p = s.p ∧ t.bitpos = s.bitpos ∧ SameConstants s t ∧ t.port = s.port ∧
  statusF t.status = true ∧ (statusFcode t.status).toNat = c ∧
  (∀ b, b < 4 ∨ 8 < b → t.status.getLsbD b = s.status.getLsbD b) ∧
  t.responses = s.responses ++ [BitVec.ofNat 32 (0x80000000 + c * 2 ^ 24)]

/-- Every piece of the block's state has the value of R33. -/
abbrev AtResetValues (t : State) : Prop :=
  (∀ r, t.elem r = 0) ∧ (∀ k, (∀ i, i < 14 → coefAt (t.poly k).c i = 0) ∧ (t.poly k).deg = -1) ∧
  t.status = 0x0000#16 ∧ t.bitpos = 0#8 ∧ t.cfg0 = 0x02EB#16 ∧ t.cfg1 = 0x0805#16 ∧ t.cfg2 = 0x0002#16 ∧
  t.g = #v[1#11, 1#11]

/-- The word of fourteen symbols is a codeword: their xor is 0 (R124 with K = 1, B = 0). -/
abbrev Codeword (w : Coefs) : Prop := xorWhere w (fun _ => true) = 0

/-- The fault a command raises in the RUNNING state, by the operand ranges of R64 and R65 and the causes of R162 to
R166, in the order of R168 (steps 3 to 5); none when it raises none. -/
def expectedFault (i : Instr) (s : State) : Option Nat :=
  match i with
  | .sysRdcr idx => if 4 < idx then some 2 else none
  | .gfInv _ ra => if s.elem ra = 0 then some 3 else none
  | .plRdc _ _ idx => if 13 < idx then some 2 else none
  | .plWrc _ idx _ => if 13 < idx then some 2 else none
  | .plWrci _ idx _ => if 13 < idx then some 2 else none
  | .plWrdeg _ imm => if imm ≤ 13 ∨ imm = 31 then none else some 2
  | .plMulxa pd _ => if (s.poly pd).deg = 13 then some 4 else none
  | .rsEnc pd => if coefAt (s.poly pd).c 0 ≠ 0 then some 5 else none
  | .rsCor _ _ idx => if 13 < idx then some 2 else none
  | .rsGen _ idx => if 1 < idx then some 2 else none
  | .bfSeek imm => if 154 < imm then some 2 else none
  | .bfIns _ len imm =>
    if len = 0 ∨ 11 < len then some 2 else if 2 ^ len ≤ imm then some 2
    else if 154 < s.bitpos.toNat + len then some 6 else none
  | .bfExt _ _ len =>
    if len = 0 ∨ 11 < len then some 2 else if 154 < s.bitpos.toNat + len then some 6 else none
  | _ => none

/-- Column "written by" of R20 for the element registers. -/
def writesElems : Instr → Bool
  | .sysRst | .gfLdi _ _ | .gfMov _ _ | .gfAdd _ _ _ | .gfMul _ _ _ | .gfInv _ _ | .gfPow _ _ _ | .plRdc _ _ _
  | .plEval _ _ _ | .rsCor _ _ _ | .rsGen _ _ | .bfExt _ _ _ => true
  | _ => false

/-- Column "written by" of R20 for the coefficients. -/
def writesCoefs : Instr → Bool
  | .sysRst | .plClr _ | .plWrc _ _ _ | .plWrci _ _ _ | .plMulxa _ _ | .plAdd _ _ | .rsEnc _ | .rsCor _ _ _
  | .bfIns _ _ _ => true
  | _ => false

/-- Column "written by" of R20 for the degrees. -/
def writesDegs : Instr → Bool
  | .sysRst | .plClr _ | .plWrdeg _ _ | .plSetdeg _ | .plMulxa _ _ | .plAdd _ _ | .rsEnc _ | .rsCor _ _ _ => true
  | _ => false

/-- Column "written by" of R20 for STATUS, faults apart. -/
def writesFlags : Instr → Bool
  | .sysRst | .gfEq _ _ | .rsVfy _ | .rsCor _ _ _ => true
  | _ => false

/-- Column "written by" of R20 for BITPOS. -/
def writesBitpos : Instr → Bool
  | .sysRst | .bfSeek _ | .bfIns _ _ _ | .bfExt _ _ _ => true
  | _ => false

end Sys2Proof.Claims

open Sys2Proof Sys2Proof.Machine Sys2Proof.Claims

/-! ### The field -/

/-- R82: multiplication by x shifts left and, when bit 10 was set, replaces x^11 by x^2 + 1, numeric 5. -/
def Obligations.XtimeReplacesTopBitByFive : Prop :=
  (∀ a : Elem, xtime a = if a.getLsbD 10 then (a <<< 1) ^^^ 5#11 else a <<< 1) ∧
  xtime 0x400 = 0x005 ∧ xtime 0x401 = 0x007 ∧ xtime 0x3FF = 0x7FE

/-- R83: the two definitions of the product are equal, with the rule's corner cases. -/
def Obligations.GfMulDefinitionsAgree : Prop :=
  (∀ a b : Elem, gfMul a b = gfMulReduce a b) ∧
  (∀ a : Elem, gfMul a 0 = 0 ∧ gfMul 0 a = 0 ∧ gfMul a 1 = a ∧ gfMul a 2 = xtime a)

/-- The inferences 40_gf_field.md draws under its power rule: square and multiply, which the block computes, gives the
n-fold product ("the value is the same"), gf_pow(0, n) = 0 for n >= 1, and for a nonzero base only n mod 2047 matters.
-/
def Obligations.SquareAndMultiplyIsTheNFoldProduct : Prop :=
  (∀ n : Nat, 1 ≤ n → gfPow 0 n = 0) ∧
  (∀ (a : Elem) (n : Nat), n < 2048 → gfPowFast a n = gfPow a n) ∧
  (∀ (a : Elem) (n : Nat), a ≠ 0 → gfPow a n = gfPow a (n % 2047))

/-- R85: for a nonzero element gf_inv is the one element whose product with it is 1, and it is the 2046th power. -/
def Obligations.GfInvIsTheOneInverse : Prop :=
  ∀ a : Elem, a ≠ 0 →
    gfMul a (gfInv a) = 1 ∧ (∀ b : Elem, gfMul a b = 1 → b = gfInv a) ∧ gfInv a = gfPow a 2046

/-- R86: the field laws, for all elements. -/
def Obligations.FieldLawsHold : Prop :=
  ∀ a b c : Elem,
    gfAdd a b = gfAdd b a ∧ gfAdd (gfAdd a b) c = gfAdd a (gfAdd b c) ∧ gfAdd a 0 = a ∧ gfAdd a a = 0 ∧
    gfMul a b = gfMul b a ∧ gfMul (gfMul a b) c = gfMul a (gfMul b c) ∧ gfMul a 1 = a ∧
    gfMul a (gfAdd b c) = gfAdd (gfMul a b) (gfMul a c) ∧ gfMul a 0 = 0 ∧
    (gfMul a b = 0 → a = 0 ∨ b = 0) ∧ (a ≠ 0 → gfMul a (gfInv a) = 1)

/-- R87: the powers 0 to 2046 of ALPHA = 2 are the nonzero elements, each once, with the rule's check values. -/
def Obligations.AlphaIsPrimitive : Prop :=
  alpha = 2 ∧
  (∀ n : Nat, gfPow alpha n ≠ 0) ∧
  (∀ a : Elem, a ≠ 0 → ∃ n, n < 2047 ∧ gfPow alpha n = a ∧ ∀ m, m < 2047 → gfPow alpha m = a → m = n) ∧
  gfPow alpha 2047 = 1 ∧
  (List.range 33).map (fun n => (gfPow alpha n).toNat) =
    [1, 2, 4, 8, 16, 32, 64, 128, 256, 512, 1024, 5, 10, 20, 40, 80, 160, 320, 640, 1280, 517, 1034,
     17, 34, 68, 136, 272, 544, 1088, 133, 266, 532, 1064] ∧
  gfSum (gfPow alpha) 2047 = 0 ∧
  (List.range 2047).foldl (fun sum n => sum + (gfPow alpha n).toNat) 0 = 2096128

/-! ### Decoding -/

/-- Decode and encode agree: for every well-formed instruction, with every operand at every value its field admits. -/
def Obligations.DecodeUndoesEncode : Prop :=
  ∀ i : Instr, WellFormed i = true → decode (encode i) = .ok i

/-- The other direction: a legal word is the encoding of what it decodes to, which is well-formed. -/
def Obligations.EncodeUndoesDecode : Prop :=
  ∀ (w : Word) (i : Instr), decode w = .ok i → WellFormed i = true ∧ encode i = w

/-- R62: word and mask = match holds exactly for the legal words of a row's command. -/
def Obligations.DecodeFollowsMatchAndMask : Prop :=
  ∀ w : Word,
    (∀ row ∈ opcodeTable, Matches w row ↔ ∃ i, decode w = .ok i ∧ i.opcode = row.1) ∧
    ((∃ e, decode w = .error e) ↔ ∀ row ∈ opcodeTable, ¬ Matches w row) ∧
    (∀ row ∈ opcodeTable, ∀ row' ∈ opcodeTable, Matches w row → Matches w row' → row = row')

/-- Words written out in the spec decode to the commands it gives them. -/
def Obligations.SpecWordsDecode : Prop :=
  decode 0x2E260000#32 = .ok (.gfMul 4 2 3) ∧ decode 0x20800123#32 = .ok (.gfLdi 1 0x123) ∧
  decode 0x04000800#32 = .ok (.sysRdcr 1) ∧ decode 0x48403800#32 = .ok (.plWrc 0 7 4) ∧
  decode 0x64008000#32 = .ok (.plAdd 0 1) ∧ decode 0x88003800#32 = .ok (.rsCor 0 0 7) ∧
  decode 0xA4002816#32 = .ok (.bfIns 0 5 22)

/-- R67: the degree code of each legal degree, in DATA and back from IMM. -/
def Obligations.DegreeCodeRoundTrip : Prop :=
  ∀ d : Int, DegreeLegal d →
    degreeData d = degreeCode d ∧ degreeOfImm (degreeData d).toNat = some d ∧
    d = (BitVec.setWidth 5 (degreeData d)).toInt

/-! ### The step -/

/-- A presented word that decodes runs its command: the step is exec on the state with the word taken from the port. -/
def Obligations.StepRunsTheDecodedCommand : Prop :=
  ∀ (s : State) (w : Word) (rest : List PortEvent) (i : Instr),
    s.port = .command w :: rest → decode w = .ok i → WellFormed i = true → step s = exec i { s with port := rest }

/-- R161: in the RUNNING state a word that matches no row raises ILLEGAL, code 1; the rule's four words are such. -/
def Obligations.IllegalWordRaisesIllegal : Prop :=
  (∀ (s : State) (w : Word) (rest : List PortEvent),
    s.port = .command w :: rest → s.Running → (∀ row ∈ opcodeTable, ¬ Matches w row) →
    ∃ t, step s = .next t ∧ FaultsWith { s with port := rest } t 1) ∧
  (∀ w ∈ [0xFC000000#32, 0x0C000000#32, 0x00000001#32, 0x20820005#32], ∀ row ∈ opcodeTable, ¬ Matches w row)

/-- R170: in the FAULTED state SYS.RST and a legal SYS.RDCR with IDX <= 4 are executed; every other word, illegal ones
included, is answered 0x8F000000 and changes nothing. -/
def Obligations.FaultedBlockRefuses : Prop :=
  ∀ (s : State) (w : Word) (rest : List PortEvent), s.port = .command w :: rest → s.Faulted →
    (w = 0x08000000#32 →
      ∃ t, step s = .next t ∧ AtResetValues t ∧ t.port = rest ∧ t.responses = s.responses ++ [0#32]) ∧
    (ReadsControl w →
      ∃ t, step s = .next t ∧ SameBlock s t ∧ t.port = rest ∧
        t.responses = s.responses ++ [(s.control (w.extractLsb' 11 4).toNat).setWidth 32]) ∧
    (w ≠ 0x08000000#32 → ¬ ReadsControl w →
      ∃ t, step s = .next t ∧ SameBlock s t ∧ t.port = rest ∧ t.responses = s.responses ++ [0x8F000000#32])

/-- R169: fault entry writes F and FCODE, answers the fault and changes nothing else. With R162 to R166: in the
RUNNING state a command faults exactly when the rules say so, with their code, and then changes nothing but STATUS.F
and STATUS.FCODE; otherwise it is executed and the block stays RUNNING. -/
def Obligations.CommandsFaultExactlyAsListed : Prop :=
  (∀ (s : State) (f : FaultCode), FaultsWith s (s.raise f) f.code.toNat) ∧
  ∀ (i : Instr) (s : State), s.Running →
    (∀ c, expectedFault i s = some c → ∃ t, exec i s = .next t ∧ FaultsWith s t c) ∧
    (expectedFault i s = none →
      ∃ t data, exec i s = .next t ∧ t.Running ∧ t.port = s.port ∧
        t.responses = s.responses ++ [BitVec.setWidth 32 (data : Half)])

/-- Every presented command is answered once, in the response format of R66. -/
def Obligations.EveryCommandAnsweredOnce : Prop :=
  ∀ (s : State) (w : Word) (rest : List PortEvent), s.port = .command w :: rest →
    ∃ t r, step s = .next t ∧ t.port = rest ∧ t.responses = s.responses ++ [r] ∧
      r.extractLsb' 28 3 = 0 ∧ r.extractLsb' 16 8 = 0 ∧
      (responseF r = false → responseFcode r = 0) ∧
      (responseF r = true → responseData r = 0 ∧ responseFcode r ∈ [1, 2, 3, 4, 5, 6, 15])

/-- Both resets put every piece of state to its reset value ("Either puts every piece of state to the value of
`10_state.md` rule R33"): the hard reset, also one that cuts a command, which answers nothing, and SYS.RST; the reset
state has those values. That a hard reset is an event at the port, in these two forms, is the model's choice (log entry
3), and that the events still to come are left as they are by it is the model's inference (log entry 4). -/
def Obligations.ResetReachesResetValues : Prop :=
  AtResetValues State.reset ∧
  (∀ (s : State) (ev : PortEvent) (rest : List PortEvent), s.port = ev :: rest →
    (ev = .hardReset ∨ ∃ w, ev = .cutCommand w) →
    ∃ t, step s = .next t ∧ AtResetValues t ∧ t.port = rest ∧ t.responses = s.responses ∧
      ∃ t', exec .sysRst { s with port := rest } = .next t' ∧ SameBlock t t')

/-- R8: the state after an event and its response are a function of the block's state and of the event alone; what else
the host will present and what it was told before make no difference. -/
def Obligations.StepDependsOnBlockAndEventAlone : Prop :=
  ∀ (s s' : State) (ev : PortEvent) (rest rest' : List PortEvent), SameBlock s s' →
    s.port = ev :: rest → s'.port = ev :: rest' →
    ∃ t t' out, step s = .next t ∧ step s' = .next t' ∧ SameBlock t t' ∧ t.port = rest ∧ t'.port = rest' ∧
      t.responses = s.responses ++ out ∧ t'.responses = s'.responses ++ out

/-- Every step keeps the invariant: STATUS, degrees, BITPOS and the constants stay legal (R23, R26, R27, R28, R29). -/
def Obligations.StepKeepsInv : Prop :=
  ∀ s t : State, s.Inv → step s = .next t → t.Inv

/-- The reset state meets the invariant. -/
def Obligations.ResetMeetsInv : Prop := State.reset.Inv

/-- The inference 70_reset_and_hazards.md draws on the end of a run ("for a run that contains no SYS.RST this is the
same as STATUS.F = 0 at the end, since nothing but reset clears F"): a run without a reset, from a RUNNING state that
has gone well, ends RUNNING exactly when no response had F = 1. -/
def Obligations.RunWentWellIffRunning : Prop :=
  ∀ (n : Nat) (s : State), s.WentWell → s.Running → (∀ ev ∈ s.port, ev.resets = false) →
    ∃ t, Sys2Proof.core.run n s = .next t ∧ (t.WentWell ↔ t.Running)

/-- The same inference as a lemma about one step, from every state: while no reset stands at the port, a step keeps it so
that no response had F = 1 exactly when STATUS.F = 0. -/
def Obligations.StepKeepsWentWellIffRunning : Prop :=
  ∀ s t : State, (∀ ev ∈ s.port, ev.resets = false) → (s.WentWell ↔ s.Running) → step s = .next t →
    (t.WentWell ↔ t.Running) ∧ ∀ ev ∈ t.port, ev.resets = false

/-- R20, column "written by": a command that changes a piece of state is one of those listed for it. -/
def Obligations.OnlyListedCommandsWriteState : Prop :=
  ∀ (i : Instr) (s t : State), exec i s = .next t →
    (t.e ≠ s.e → writesElems i = true) ∧
    ((∃ k, (t.poly k).c ≠ (s.poly k).c) → writesCoefs i = true) ∧
    ((∃ k, (t.poly k).deg ≠ (s.poly k).deg) → writesDegs i = true) ∧
    (t.status ≠ s.status → writesFlags i = true ∨ (s.Running ∧ t.Faulted ∧ (expectedFault i s).isSome = true)) ∧
    (t.bitpos ≠ s.bitpos → writesBitpos i = true) ∧
    (s.ConstantsHold → SameConstants s t)

/-- R26: OK is written by RS.VFY and RS.COR, EQ by GF.EQ, F and FCODE by fault entry, with the code of the fault that the
command raises by R162 to R166 and by no command that raises none; the zero bits by nothing; and F and FCODE are cleared
only by reset. (A word that is no command raises ILLEGAL: IllegalWordRaisesIllegal.) -/
def Obligations.StatusFieldsHaveTheirWriters : Prop :=
  ∀ (i : Instr) (s t : State), exec i s = .next t → i ≠ .sysRst →
    (statusOk t.status ≠ statusOk s.status → (∃ pd, i = .rsVfy pd) ∨ ∃ rd pd idx, i = .rsCor rd pd idx) ∧
    (statusEq t.status ≠ statusEq s.status → ∃ ra rb, i = .gfEq ra rb) ∧
    (∀ b, b = 2 ∨ b = 3 ∨ 9 ≤ b → t.status.getLsbD b = s.status.getLsbD b) ∧
    (s.Faulted → t.Faulted ∧ statusFcode t.status = statusFcode s.status) ∧
    (s.Running → t.Running → statusFcode t.status = statusFcode s.status) ∧
    (s.Running → t.Faulted → ∃ c, expectedFault i s = some c ∧ (statusFcode t.status).toNat = c)

/-! ### The system commands -/

/-- R150 and R151: SYS.NOP changes nothing; SYS.RDCR returns the control register and changes nothing, in both states;
a register that does not exist raises OPERAND in the RUNNING state and is refused in the FAULTED state. -/
def Obligations.SysNopAndRdcrResults : Prop :=
  (∀ s : State, s.Running → ∃ t, exec .sysNop s = .next t ∧ SameBlock s t ∧ Answered s t 0) ∧
  (∀ s : State, s.Faulted → ∃ t, exec .sysNop s = .next t ∧ SameBlock s t ∧ t.port = s.port ∧
    t.responses = s.responses ++ [0x8F000000#32]) ∧
  (∀ (s : State) (idx : Nat), idx ≤ 4 → ∃ t, exec (.sysRdcr idx) s = .next t ∧ SameBlock s t ∧
    Answered s t ([s.status, s.bitpos.setWidth 16, s.cfg0, s.cfg1, s.cfg2].getD idx 0)) ∧
  (∀ (s : State) (idx : Nat), 4 < idx → s.Running → ∃ t, exec (.sysRdcr idx) s = .next t ∧ FaultsWith s t 2) ∧
  (∀ (s : State) (idx : Nat), 4 < idx → s.Faulted → ∃ t, exec (.sysRdcr idx) s = .next t ∧ SameBlock s t ∧
    t.port = s.port ∧ t.responses = s.responses ++ [0x8F000000#32])

/-- R152: SYS.RST, in either state, puts all state to its reset value and answers 0. (That the events still to come at the
port are no part of that state is the model's inference, log entry 4.) -/
def Obligations.SysRstResetsEverything : Prop :=
  encode .sysRst = 0x08000000#32 ∧
  ∀ s : State, ∃ t, exec .sysRst s = .next t ∧ AtResetValues t ∧ t.Running ∧ t.port = s.port ∧
    t.responses = s.responses ++ [0#32]

/-! ### The field commands -/

/-- R88 to R91: GF.LDI, GF.MOV, GF.ADD and GF.MUL write and return their value and change nothing else. -/
def Obligations.GfLoadMoveAddMulResults : Prop :=
  (∀ s : State, s.Running →
    (∀ (rd : EReg) (imm : Nat), imm < 2048 →
      ∃ t, exec (.gfLdi rd imm) s = .next t ∧ ElemResult s t rd (BitVec.ofNat 11 imm)) ∧
    (∀ rd ra : EReg, ∃ t, exec (.gfMov rd ra) s = .next t ∧ ElemResult s t rd (s.elem ra)) ∧
    (∀ rd ra rb : EReg, ∃ t, exec (.gfAdd rd ra rb) s = .next t ∧ ElemResult s t rd (s.elem ra ^^^ s.elem rb)) ∧
    (∀ rd ra rb : EReg, ∃ t, exec (.gfMul rd ra rb) s = .next t ∧
      ElemResult s t rd (gfMulReduce (s.elem ra) (s.elem rb)))) ∧
  encode (.gfLdi 1 0x123) = 0x20800123#32 ∧ encode (.gfMov 0 3) = 0x24300000#32 ∧
  encode (.gfAdd 0 1 2) = 0x28140000#32 ∧ encode (.gfMul 4 2 3) = 0x2E260000#32 ∧ gfMul 0x555 0x2AA = 0x777

/-- R92: GF.INV of a nonzero element writes and returns the element whose product with it is 1; of zero it raises
INVZERO, code 3, and writes nothing. -/
def Obligations.GfInvResult : Prop :=
  (∀ (s : State) (rd ra : EReg), s.Running →
    (s.elem ra ≠ 0 → ∃ t v, exec (.gfInv rd ra) s = .next t ∧ ElemResult s t rd v ∧ gfMul (s.elem ra) v = 1) ∧
    (s.elem ra = 0 → ∃ t, exec (.gfInv rd ra) s = .next t ∧ FaultsWith s t 3)) ∧
  gfInv 1 = 1 ∧ (∀ a : Elem, a ≠ 0 → gfInv a ≠ 0 ∧ gfInv (gfInv a) = a) ∧
  encode (.gfInv 7 6) = 0x33E00000#32 ∧ gfInv 2 = 1026

/-- R93: GF.POW writes and returns the n-fold product for the immediate exponent n; n = 2046 on a nonzero base gives its
inverse and n = 2047 gives 1. -/
def Obligations.GfPowResult : Prop :=
  (∀ (s : State) (rd ra : EReg) (imm : Nat), s.Running → imm < 2048 →
    ∃ t, exec (.gfPow rd ra imm) s = .next t ∧ ElemResult s t rd (gfPow (s.elem ra) imm)) ∧
  (∀ a : Elem, gfPow a 0 = 1 ∧ (a ≠ 0 → gfPow a 2046 = gfInv a ∧ gfPow a 2047 = 1)) ∧
  (∀ n : Nat, 1 ≤ n → gfPow 0 n = 0 ∧ gfPow 1 n = 1) ∧
  encode (.gfPow 1 0 0) = 0x34800000#32 ∧ encode (.gfPow 1 0 11) = 0x3480000B#32 ∧ gfPow 2 11 = 5

/-- R94: GF.EQ writes and returns EQ and changes nothing else. -/
def Obligations.GfEqResult : Prop :=
  (∀ (s : State) (ra rb : EReg), s.Running →
    ∃ t, exec (.gfEq ra rb) s = .next t ∧ t.e = s.e ∧ t.p = s.p ∧ t.bitpos = s.bitpos ∧
      (statusEq t.status = true ↔ s.elem ra = s.elem rb) ∧
      (∀ b, b ≠ 1 → t.status.getLsbD b = s.status.getLsbD b) ∧
      Answered s t (if s.elem ra = s.elem rb then 1 else 0)) ∧
  encode (.gfEq 0 4) = 0x38080000#32

/-! ### The polynomial commands -/

/-- R102: PL.CLR leaves the empty polynomial and returns 0. -/
def Obligations.PlClrResult : Prop :=
  (∀ (s : State) (pd : PReg), s.Running →
    ∃ t, exec (.plClr pd) s = .next t ∧ (∀ i, i < 14 → coefAt (t.poly pd).c i = 0) ∧ (t.poly pd).deg = -1 ∧
      OnlyPoly s t pd 0) ∧
  encode (.plClr 1) = 0x40010000#32

/-- R103: PL.RDC writes and returns the physical coefficient, also above the degree; IDX 14 and 15 raise OPERAND. -/
def Obligations.PlRdcResult : Prop :=
  (∀ (s : State) (rd : EReg) (pd : PReg) (idx : Nat), s.Running →
    (idx ≤ 13 → ∃ t, exec (.plRdc rd pd idx) s = .next t ∧ ElemResult s t rd (coefAt (s.poly pd).c idx)) ∧
    (13 < idx → ∃ t, exec (.plRdc rd pd idx) s = .next t ∧ FaultsWith s t 2)) ∧
  encode (.plRdc 0 0 0) = 0x44000000#32

/-- R104 and R105: PL.WRC and PL.WRCI write one coefficient and return it; no other coefficient and no degree changes;
IDX 14 and 15 raise OPERAND. -/
def Obligations.PlWrcAndWrciResults : Prop :=
  (∀ (s : State) (pd : PReg) (idx : Nat) (v : Elem) (i : Instr), s.Running →
    ((∃ ra, i = .plWrc pd idx ra ∧ v = s.elem ra) ∨ (∃ imm, i = .plWrci pd idx imm ∧ imm < 2048 ∧ v.toNat = imm)) →
    (idx ≤ 13 → ∃ t, exec i s = .next t ∧ coefAt (t.poly pd).c idx = v ∧
      (∀ j, j ≠ idx → coefAt (t.poly pd).c j = coefAt (s.poly pd).c j) ∧ (t.poly pd).deg = (s.poly pd).deg ∧
      OnlyPoly s t pd (v.setWidth 16)) ∧
    (13 < idx → ∃ t, exec i s = .next t ∧ FaultsWith s t 2)) ∧
  encode (.plWrc 0 7 4) = 0x48403800#32 ∧ encode (.plWrci 0 2 1536) = 0x4C001600#32

/-- R106 and R107: PL.RDDEG returns the degree code and changes nothing; PL.WRDEG writes a degree and no coefficient,
and raises OPERAND on a value that is no degree code. -/
def Obligations.PlRddegAndWrdegResults : Prop :=
  (∀ (s : State) (pd : PReg), s.Running →
    (DegreeLegal (s.poly pd).deg →
      ∃ t, exec (.plRddeg pd) s = .next t ∧ SameBlock s t ∧ Answered s t (degreeCode (s.poly pd).deg)) ∧
    (∀ (imm : Nat) (d : Int), (imm ≤ 13 ∧ d = imm) ∨ (imm = 31 ∧ d = -1) →
      ∃ t, exec (.plWrdeg pd imm) s = .next t ∧ (t.poly pd).c = (s.poly pd).c ∧ (t.poly pd).deg = d ∧
        OnlyPoly s t pd (BitVec.ofNat 16 imm)) ∧
    (∀ imm : Nat, 13 < imm → imm ≠ 31 → ∃ t, exec (.plWrdeg pd imm) s = .next t ∧ FaultsWith s t 2)) ∧
  encode (.plRddeg 0) = 0x50000000#32 ∧ encode (.plWrdeg 1 0) = 0x54010000#32 ∧
  encode (.plWrdeg 0 31) = 0x5400001F#32 ∧ encode (.plWrdeg 0 14) = 0x5400000E#32

/-- R108 (and R100): PL.SETDEG leaves the coefficients and sets the degree to the highest index of a nonzero one, or -1
when all are zero; the register is then normalised. -/
def Obligations.PlSetdegResult : Prop :=
  (∀ (s : State) (pd : PReg), s.Running →
    ∃ t, exec (.plSetdeg pd) s = .next t ∧ (t.poly pd).c = (s.poly pd).c ∧ Normalised (t.poly pd) ∧
      ((t.poly pd).deg = -1 ↔ ∀ i, i < 14 → coefAt (s.poly pd).c i = 0) ∧
      (∀ n : Nat, (t.poly pd).deg = n ↔
        (n < 14 ∧ coefAt (s.poly pd).c n ≠ 0 ∧ ∀ i, n < i → i < 14 → coefAt (s.poly pd).c i = 0)) ∧
      OnlyPoly s t pd (degreeCode (t.poly pd).deg)) ∧
  encode (.plSetdeg 0) = 0x58000000#32

/-- R109: PL.EVAL writes and returns the Horner value of the coefficients 0..deg at e[ea]; with the corner cases: 0 at
degree -1, L(pd, 0) at 0, the xor of the logical coefficients at 1. -/
def Obligations.PlEvalResult : Prop :=
  (∀ (s : State) (rd : EReg) (pd : PReg) (ra : EReg), s.Running → DegreeLegal (s.poly pd).deg →
    ∃ t v, exec (.plEval rd pd ra) s = .next t ∧ ElemResult s t rd v ∧
      v = ((List.range ((s.poly pd).deg + 1).toNat).reverse.foldl
        (fun acc i => gfMul acc (s.elem ra) ^^^ coefAt (s.poly pd).c i) 0) ∧
      ((s.poly pd).deg = -1 → v = 0) ∧ (s.elem ra = 0 → v = logical (s.poly pd) 0) ∧
      (s.elem ra = 1 → v = gfSum (fun i => logical (s.poly pd) i) 14)) ∧
  encode (.plEval 1 0 0) = 0x5C800000#32

/-- The inference 41_polynomial.md draws under its horner function ("The result equals the sum over i = 0..deg of
gf_mul(p[k].c[i], gf_pow(x, i))"). -/
def Obligations.HornerIsThePolynomialSum : Prop :=
  ∀ (q : PolyReg) (x : Elem), DegreeLegal q.deg →
    horner q x = gfSum (fun i => gfMul (coefAt q.c i) (gfPow x i)) (q.deg + 1).toNat

/-- R110: PL.MULXA multiplies the logical polynomial by (x - a), writes all fourteen coefficients and leaves the
register normalised; at degree 13 it raises POLYOVF, code 4, and writes nothing. -/
def Obligations.PlMulxaResult : Prop :=
  (∀ (s : State) (pd : PReg) (ra : EReg), s.Running →
    ((s.poly pd).deg = 13 → ∃ t, exec (.plMulxa pd ra) s = .next t ∧ FaultsWith s t 4) ∧
    ((s.poly pd).deg ≠ 13 → ∃ t, exec (.plMulxa pd ra) s = .next t ∧
      (∀ i : Nat, i < 14 → coefAt (t.poly pd).c i =
        gfAdd (if i = 0 then 0 else logical (s.poly pd) ((i : Int) - 1))
          (gfMul (s.elem ra) (logical (s.poly pd) i))) ∧
      Normalised (t.poly pd) ∧
      ((s.poly pd).deg = -1 → t.poly pd = PolyReg.empty) ∧
      OnlyPoly s t pd (degreeCode (t.poly pd).deg))) ∧
  encode (.plMulxa 0 3) = 0x60300000#32 ∧ encode (.plMulxa 1 0) = 0x60010000#32

/-- R111: PL.ADD adds the logical polynomials coefficient by coefficient, leaves `p[pd]` normalised and `p[ps]`
unchanged unless it is `p[pd]`, which then becomes empty. -/
def Obligations.PlAddResult : Prop :=
  (∀ (s : State) (pd ps : PReg), s.Running →
    ∃ t, exec (.plAdd pd ps) s = .next t ∧
      (∀ i : Nat, i < 14 → coefAt (t.poly pd).c i = gfAdd (logical (s.poly pd) i) (logical (s.poly ps) i)) ∧
      Normalised (t.poly pd) ∧ (ps ≠ pd → t.poly ps = s.poly ps) ∧ (ps = pd → t.poly pd = PolyReg.empty) ∧
      OnlyPoly s t pd (degreeCode (t.poly pd).deg)) ∧
  encode (.plAdd 0 1) = 0x64008000#32

/-- The inferences 41_polynomial.md draws from the commands' rules: which PL commands keep a normalised register
normalised ("Which PL commands keep a normalised register normalised"), and that PL.MULXA of a normalised register of
degree n in 0..12 has degree n + 1 and the old leading coefficient. -/
def Obligations.NormalisationOfPlCommands : Prop :=
  (∀ (s t : State) (pd : PReg) (i : Instr), s.Running → exec i s = .next t → t.Running →
    (i = .plClr pd ∨ i = .plSetdeg pd ∨ (∃ ra, i = .plMulxa pd ra) ∨ (∃ ps, i = .plAdd pd ps)) →
    Normalised (t.poly pd)) ∧
  (∀ (s t : State) (pd : PReg) (i : Instr), exec i s = .next t →
    ((∃ rd idx, i = .plRdc rd pd idx) ∨ i = .plRddeg pd ∨ (∃ rd ra, i = .plEval rd pd ra)) → t.p = s.p) ∧
  (∃ (s t : State), Normalised (s.poly 0) ∧ exec (.plWrc 0 3 1) s = .next t ∧ ¬ Normalised (t.poly 0)) ∧
  (∃ (s t : State), Normalised (s.poly 0) ∧ exec (.plWrci 0 3 1) s = .next t ∧ ¬ Normalised (t.poly 0)) ∧
  (∃ (s t : State), Normalised (s.poly 0) ∧ exec (.plWrdeg 0 3) s = .next t ∧ ¬ Normalised (t.poly 0)) ∧
  (∀ (s t : State) (pd : PReg), exec (.plSetdeg pd) s = .next t → (t.poly pd).c = (s.poly pd).c) ∧
  (∀ (s t : State) (pd : PReg) (ra : EReg), s.Running → Normalised (s.poly pd) →
    0 ≤ (s.poly pd).deg → (s.poly pd).deg ≤ 12 → exec (.plMulxa pd ra) s = .next t →
    (t.poly pd).deg = (s.poly pd).deg + 1 ∧
    coefAt (t.poly pd).c (t.poly pd).deg.toNat = coefAt (s.poly pd).c (s.poly pd).deg.toNat)

/-- The inferences 42_reed_solomon.md draws on word_eval ("it equals horner ... for a register whose degree is 13 or
that is normalised"; "With x = 1 it is the xor of the 14 symbols"): over all fourteen positions Horner's scheme equals
the degree-bounded one when the degree is 13 or the register is normalised, and at 1 it is the xor of the symbols. -/
def Obligations.WordEvalAgreesWithHorner : Prop :=
  (∀ (q : PolyReg) (x : Elem), q.deg = 13 ∨ Normalised q → wordEval q.c x = horner q x) ∧
  (∀ w : Coefs, wordEval w 1 = xorWhere w (fun _ => true))

/-! ### The Reed-Solomon commands -/

/-- R125: RS.ENC keeps the data symbols and puts at position 0 the check symbol, after which the polynomial evaluated
at each root of g equals zero (no other check symbol does that), sets the degree by scanning and returns the symbol; a
nonzero check position raises ENCPRE, code 5, and nothing is written. The generator's constants (R29) are a premise,
kept by every step. -/
def Obligations.RsEncResult : Prop :=
  (∀ (s : State) (pd : PReg), s.Running → s.ConstantsHold →
    (coefAt (s.poly pd).c 0 = 0 → ∃ t, exec (.rsEnc pd) s = .next t ∧
      (∀ j, j < Config.hw.k → wordEval (t.poly pd).c (rootOf Config.hw j) = 0) ∧
      (∀ v : Elem, wordEval (setCoefAt (s.poly pd).c 0 v) (rootOf Config.hw 0) = 0 → v = coefAt (t.poly pd).c 0) ∧
      (∀ i, 1 ≤ i → coefAt (t.poly pd).c i = coefAt (s.poly pd).c i) ∧
      Normalised (t.poly pd) ∧ OnlyPoly s t pd ((coefAt (t.poly pd).c 0).setWidth 16)) ∧
    (coefAt (s.poly pd).c 0 ≠ 0 → ∃ t, exec (.rsEnc pd) s = .next t ∧ FaultsWith s t 5)) ∧
  encode (.rsEnc 0) = 0x80000000#32

/-- R126: RS.VFY writes and returns OK, 1 exactly when the xor of the fourteen physical coefficients is 0; nothing else
changes. -/
def Obligations.RsVfyResult : Prop :=
  (∀ (s : State) (pd : PReg), s.Running →
    ∃ t, exec (.rsVfy pd) s = .next t ∧ t.e = s.e ∧ t.p = s.p ∧ t.bitpos = s.bitpos ∧
      (statusOk t.status = true ↔ wordEval (s.poly pd).c (rootOf Config.hw 0) = 0) ∧
      (statusOk t.status = true ↔ Codeword (s.poly pd).c) ∧
      (∀ b, b ≠ 0 → t.status.getLsbD b = s.status.getLsbD b) ∧
      Answered s t (if statusOk t.status then 1 else 0)) ∧
  encode (.rsVfy 0) = 0x84000000#32

/-- R127: RS.COR finds the one value that makes the word evaluate to zero at all K roots, whatever the position held;
it is written to the position and to `e[ed]` and returned; OK is 1; IDX 14 and 15 raise OPERAND. -/
def Obligations.RsCorResult : Prop :=
  (∀ (s : State) (rd : EReg) (pd : PReg) (idx : Nat), s.Running →
    (idx ≤ 13 → ∃ t v, exec (.rsCor rd pd idx) s = .next t ∧
      (∀ v' : Elem, (∀ j, j < Config.hw.k → wordEval (setCoefAt (s.poly pd).c idx v') (rootOf Config.hw j) = 0) ↔
        v' = v) ∧
      coefAt (t.poly pd).c idx = v ∧ (∀ i, i ≠ idx → coefAt (t.poly pd).c i = coefAt (s.poly pd).c i) ∧
      Normalised (t.poly pd) ∧ (∀ k, k ≠ pd → t.poly k = s.poly k) ∧
      WritesElem s t rd v ∧ statusOk t.status = true ∧
      (∀ b, b ≠ 0 → t.status.getLsbD b = s.status.getLsbD b) ∧ t.bitpos = s.bitpos ∧
      Answered s t (v.setWidth 16)) ∧
    (13 < idx → ∃ t, exec (.rsCor rd pd idx) s = .next t ∧ FaultsWith s t 2)) ∧
  encode (.rsCor 0 0 7) = 0x88003800#32

/-- The inference 42_reed_solomon.md calls the direct solve ("gf_pow(r, e) is never 0, so v exists and is unique, and
the scan ... finds exactly it"; "v = S = the xor of the other 13 symbols"): the scan finds exactly the value of the
direct solve, the one value that makes the word a codeword. -/
def Obligations.ScanEqualsDirectSolve : Prop :=
  ∀ (w : Coefs) (epos : Nat), epos < 14 →
    gfPow (rootOf Config.hw 0) epos ≠ 0 ∧
    correctErasure Config.hw w epos = some (directSolve (rootOf Config.hw 0) w epos) ∧
    (∀ v : Elem, isCodeword Config.hw (setCoefAt w epos v) = true ↔ v = directSolve (rootOf Config.hw 0) w epos) ∧
    directSolve (rootOf Config.hw 0) w epos = xorWhere w (fun i => decide (i ≠ epos))

/-- R128 and R122: RS.GEN writes and returns G[IDX]; with the constants of R29 that is the generator polynomial built
from its roots; IDX above 1 raises OPERAND. -/
def Obligations.RsGenResult : Prop :=
  (∀ (s : State) (rd : EReg) (idx : Nat), s.Running →
    (idx ≤ 1 → s.ConstantsHold →
      ∃ t, exec (.rsGen rd idx) s = .next t ∧ ElemResult s t rd ((genPoly Config.hw).getD idx 0)) ∧
    (1 < idx → ∃ t, exec (.rsGen rd idx) s = .next t ∧ FaultsWith s t 2)) ∧
  genPoly Config.hw = [1, 1] ∧
  encode (.rsGen 2 0) = 0x8D000000#32 ∧ encode (.rsGen 3 1) = 0x8D800800#32 ∧ encode (.rsGen 0 2) = 0x8C001000#32

/-- R130: a codeword in which one symbol is replaced by another value does not verify. -/
def Obligations.SingleSubstitutionIsDetected : Prop :=
  ∀ (s : State) (pd : PReg) (i imm : Nat), s.Running → Codeword (s.poly pd).c → i < 14 → imm < 2048 →
    (coefAt (s.poly pd).c i).toNat ≠ imm →
    ∃ t u, exec (.plWrci pd i imm) s = .next t ∧ exec (.rsVfy pd) t = .next u ∧
      statusOk u.status = false ∧ u.responses = t.responses ++ [0#32]

/-- The inference 42_reed_solomon.md calls the erasure round trip ("If w is a codeword and any one position e is
overwritten with any value, RS.COR at e restores w[e]"): a codeword in which one symbol is overwritten with any value
is restored by RS.COR at that position. -/
def Obligations.ErasureIsRestored : Prop :=
  ∀ (s : State) (rd : EReg) (pd : PReg) (i imm : Nat), s.Running → Codeword (s.poly pd).c → i < 14 → imm < 2048 →
    ∃ t u, exec (.plWrci pd i imm) s = .next t ∧ exec (.rsCor rd pd i) t = .next u ∧
      (u.poly pd).c = (s.poly pd).c ∧ u.elem rd = coefAt (s.poly pd).c i ∧ statusOk u.status = true

/-- Inferences of 42_reed_solomon.md and 43_bitfield.md: the check symbol is the xor of the data symbols ("the
remainder of w(x) modulo x + 1 is w(1)"), "a word produced by RS.ENC is a codeword", which RS.VFY accepts, and the
payload at offsets 11 to 153 survives encoding. -/
def Obligations.EncodedWordVerifies : Prop :=
  ∀ (s : State) (pd : PReg), s.Running → s.ConstantsHold → coefAt (s.poly pd).c 0 = 0 →
    ∃ t u, exec (.rsEnc pd) s = .next t ∧ exec (.rsVfy pd) t = .next u ∧
      coefAt (t.poly pd).c 0 = xorWhere (s.poly pd).c (fun i => decide (1 ≤ i)) ∧ statusOk u.status = true ∧
      u.responses = t.responses ++ [1#32] ∧
      ∀ pos, 11 ≤ pos → pos < 154 → bitAt (u.poly pd).c pos = bitAt (s.poly pd).c pos

/-! ### The bit-field commands -/

/-- R42: offset pos is bit 10 - pos mod 11 of coefficient pos div 11. So the offsets 0..153 are the bits of the fourteen
coefficients, each once, coefficient 0 and the most significant bit first, and a value placed at an offset has its most
significant bit there and its least significant bit at the last offset it takes. -/
def Obligations.BitSpaceCoversEachBitOnce : Prop :=
  (∀ pos, pos < 154 → coefOfBit pos = pos / 11 ∧ bitOfBit pos = 10 - pos % 11) ∧
  (∀ (w : Coefs) (pos : Nat), pos < 154 → bitAt w pos = (coefAt w (pos / 11)).getLsbD (10 - pos % 11)) ∧
  (∀ pos, pos < 154 → coefOfBit pos < 14 ∧ bitOfBit pos ≤ 10) ∧
  (∀ q b, q < 14 → b ≤ 10 → ∃ pos, pos < 154 ∧ coefOfBit pos = q ∧ bitOfBit pos = b ∧
    ∀ pos', pos' < 154 → coefOfBit pos' = q → bitOfBit pos' = b → pos' = pos) ∧
  coefOfBit 0 = 0 ∧ bitOfBit 0 = 10 ∧ coefOfBit 10 = 0 ∧ bitOfBit 10 = 0 ∧ coefOfBit 11 = 1 ∧ bitOfBit 11 = 10 ∧
  coefOfBit 153 = 13 ∧ bitOfBit 153 = 0 ∧
  (∀ (w : Coefs) (pos n : Nat) (v : Elem), 1 ≤ n → n ≤ 11 → pos + n ≤ 154 →
    bitAt (bitsWrite w pos n v) pos = v.getLsbD (n - 1) ∧ bitAt (bitsWrite w pos n v) (pos + n - 1) = v.getLsbD 0)

/-- R140: writing bit by bit is the document's chunked description: the first min(r, n) bits of the value go to bits r-1
down of the current coefficient, the rest to the top bits of the next, and no other bit changes. -/
def Obligations.BitsWriteIsTheChunkedWrite : Prop :=
  ∀ (w : Coefs) (pos n : Nat) (v : Elem), 1 ≤ n → n ≤ 11 → pos + n ≤ 154 → v.toNat < 2 ^ n →
    ∀ (r m q b : Nat), r = 11 - pos % 11 → m = min r n → q < 14 → b < 11 →
    (coefAt (bitsWrite w pos n v) q).getLsbD b =
      if q = pos / 11 ∧ r - m ≤ b ∧ b < r then v.getLsbD (n - m + (b - (r - m)))
      else if q = pos / 11 + 1 ∧ m < n ∧ 11 - (n - m) ≤ b then v.getLsbD (b - (11 - (n - m)))
      else (coefAt w q).getLsbD b

/-- R141: BF.SEEK sets BITPOS, 0..154, and returns it; a larger offset raises OPERAND. -/
def Obligations.BfSeekResult : Prop :=
  (∀ (s : State) (imm : Nat), s.Running →
    (imm ≤ 154 → ∃ t, exec (.bfSeek imm) s = .next t ∧ t.bitpos.toNat = imm ∧ t.e = s.e ∧ t.p = s.p ∧
      t.status = s.status ∧ Answered s t (BitVec.ofNat 16 imm)) ∧
    (154 < imm → ∃ t, exec (.bfSeek imm) s = .next t ∧ FaultsWith s t 2)) ∧
  encode (.bfSeek 11) = 0xA000000B#32

/-- R142: BF.INS replaces the LEN bits at the cursor by the value, most significant bit first, changes no other bit of
the register and no degree, and advances the cursor; its faults come in the rule's order. -/
def Obligations.BfInsResult : Prop :=
  (∀ (s : State) (pd : PReg) (len imm : Nat), s.Running →
    (len = 0 ∨ 11 < len → ∃ t, exec (.bfIns pd len imm) s = .next t ∧ FaultsWith s t 2) ∧
    (1 ≤ len → len ≤ 11 → 2 ^ len ≤ imm → ∃ t, exec (.bfIns pd len imm) s = .next t ∧ FaultsWith s t 2) ∧
    (1 ≤ len → len ≤ 11 → imm < 2 ^ len → 154 < s.bitpos.toNat + len →
      ∃ t, exec (.bfIns pd len imm) s = .next t ∧ FaultsWith s t 6) ∧
    (1 ≤ len → len ≤ 11 → imm < 2 ^ len → s.bitpos.toNat + len ≤ 154 →
      ∃ t, exec (.bfIns pd len imm) s = .next t ∧
        (∀ pos, pos < 154 → bitAt (t.poly pd).c pos =
          if s.bitpos.toNat ≤ pos ∧ pos < s.bitpos.toNat + len then imm.testBit (len - 1 - (pos - s.bitpos.toNat))
          else bitAt (s.poly pd).c pos) ∧
        (t.poly pd).deg = (s.poly pd).deg ∧ (∀ k, k ≠ pd → t.poly k = s.poly k) ∧ t.e = s.e ∧
        t.status = s.status ∧ t.bitpos.toNat = s.bitpos.toNat + len ∧
        Answered s t (BitVec.ofNat 16 (s.bitpos.toNat + len)))) ∧
  encode (.bfIns 0 5 22) = 0xA4002816#32 ∧ encode (.bfIns 1 4 0) = 0xA4012000#32

/-- R143: BF.EXT writes and returns the LEN bits at the cursor, most significant bit first, as an unsigned number, and
advances the cursor; the polynomial registers are unchanged. -/
def Obligations.BfExtResult : Prop :=
  (∀ (s : State) (rd : EReg) (pd : PReg) (len : Nat), s.Running →
    (len = 0 ∨ 11 < len → ∃ t, exec (.bfExt rd pd len) s = .next t ∧ FaultsWith s t 2) ∧
    (1 ≤ len → len ≤ 11 → 154 < s.bitpos.toNat + len →
      ∃ t, exec (.bfExt rd pd len) s = .next t ∧ FaultsWith s t 6) ∧
    (1 ≤ len → len ≤ 11 → s.bitpos.toNat + len ≤ 154 →
      ∃ t v, exec (.bfExt rd pd len) s = .next t ∧ v.toNat < 2 ^ len ∧
        (∀ k, k < len → v.getLsbD (len - 1 - k) = bitAt (s.poly pd).c (s.bitpos.toNat + k)) ∧
        WritesElem s t rd v ∧ t.p = s.p ∧ t.status = s.status ∧ t.bitpos.toNat = s.bitpos.toNat + len ∧
        Answered s t (v.setWidth 16))) ∧
  encode (.bfExt 2 0 5) = 0xA9002800#32 ∧ encode (.bfExt 0 1 5) = 0xA8012800#32

/-- The inference 43_bitfield.md calls the round trip ("If BF.INS of (LEN, v) is done at offset pos and no command
writes those bits afterwards, BF.EXT of LEN at offset pos returns v"): a value inserted at an offset is extracted from
there as long as no command has written those bits; RS.ENC writes none of the bits at offsets 11 to 153. -/
def Obligations.InsertThenExtractReturnsValue : Prop :=
  (∀ (s t u : State) (pd : PReg) (rd : EReg) (len imm : Nat), s.Running → 1 ≤ len → len ≤ 11 → imm < 2 ^ len →
    s.bitpos.toNat + len ≤ 154 → exec (.bfIns pd len imm) s = .next t →
    u.Running → u.bitpos = s.bitpos →
    (∀ pos, s.bitpos.toNat ≤ pos → pos < s.bitpos.toNat + len → bitAt (u.poly pd).c pos = bitAt (t.poly pd).c pos) →
    ∃ u', exec (.bfExt rd pd len) u = .next u' ∧ (u'.elem rd).toNat = imm ∧
      u'.responses = u.responses ++ [BitVec.ofNat 32 imm]) ∧
  (∀ (s t : State) (pd : PReg), exec (.rsEnc pd) s = .next t →
    ∀ k pos, 11 ≤ pos → pos < 154 → bitAt (t.poly k).c pos = bitAt (s.poly k).c pos)
end

