-- ==== Sys2Proof/Laws/State.lean ====
section
/-! SUPPORT. What each update of a state leaves in each field: one lemma per field per update. -/

namespace Sys2Proof.Machine

@[simp] theorem State.setElem_e (s : State) (r : EReg) (v : Elem) : (s.setElem r v).e = s.e.set r v := rfl
@[simp] theorem State.setElem_p (s : State) (r : EReg) (v : Elem) : (s.setElem r v).p = s.p := rfl
@[simp] theorem State.setElem_status (s : State) (r : EReg) (v : Elem) : (s.setElem r v).status = s.status := rfl
@[simp] theorem State.setElem_bitpos (s : State) (r : EReg) (v : Elem) : (s.setElem r v).bitpos = s.bitpos := rfl
@[simp] theorem State.setElem_cfg0 (s : State) (r : EReg) (v : Elem) : (s.setElem r v).cfg0 = s.cfg0 := rfl
@[simp] theorem State.setElem_cfg1 (s : State) (r : EReg) (v : Elem) : (s.setElem r v).cfg1 = s.cfg1 := rfl
@[simp] theorem State.setElem_cfg2 (s : State) (r : EReg) (v : Elem) : (s.setElem r v).cfg2 = s.cfg2 := rfl
@[simp] theorem State.setElem_g (s : State) (r : EReg) (v : Elem) : (s.setElem r v).g = s.g := rfl
@[simp] theorem State.setElem_port (s : State) (r : EReg) (v : Elem) : (s.setElem r v).port = s.port := rfl
@[simp] theorem State.setElem_responses (s : State) (r : EReg) (v : Elem) : (s.setElem r v).responses = s.responses := rfl

@[simp] theorem State.setPoly_e (s : State) (k : PReg) (q : PolyReg) : (s.setPoly k q).e = s.e := rfl
@[simp] theorem State.setPoly_p (s : State) (k : PReg) (q : PolyReg) : (s.setPoly k q).p = s.p.set k q := rfl
@[simp] theorem State.setPoly_status (s : State) (k : PReg) (q : PolyReg) : (s.setPoly k q).status = s.status := rfl
@[simp] theorem State.setPoly_bitpos (s : State) (k : PReg) (q : PolyReg) : (s.setPoly k q).bitpos = s.bitpos := rfl
@[simp] theorem State.setPoly_cfg0 (s : State) (k : PReg) (q : PolyReg) : (s.setPoly k q).cfg0 = s.cfg0 := rfl
@[simp] theorem State.setPoly_cfg1 (s : State) (k : PReg) (q : PolyReg) : (s.setPoly k q).cfg1 = s.cfg1 := rfl
@[simp] theorem State.setPoly_cfg2 (s : State) (k : PReg) (q : PolyReg) : (s.setPoly k q).cfg2 = s.cfg2 := rfl
@[simp] theorem State.setPoly_g (s : State) (k : PReg) (q : PolyReg) : (s.setPoly k q).g = s.g := rfl
@[simp] theorem State.setPoly_port (s : State) (k : PReg) (q : PolyReg) : (s.setPoly k q).port = s.port := rfl
@[simp] theorem State.setPoly_responses (s : State) (k : PReg) (q : PolyReg) : (s.setPoly k q).responses = s.responses := rfl

@[simp] theorem State.setCoefs_e (s : State) (k : PReg) (w : Coefs) : (s.setCoefs k w).e = s.e := rfl
@[simp] theorem State.setCoefs_p (s : State) (k : PReg) (w : Coefs) : (s.setCoefs k w).p = s.p.set k { s.poly k with c := w } := rfl
@[simp] theorem State.setCoefs_status (s : State) (k : PReg) (w : Coefs) : (s.setCoefs k w).status = s.status := rfl
@[simp] theorem State.setCoefs_bitpos (s : State) (k : PReg) (w : Coefs) : (s.setCoefs k w).bitpos = s.bitpos := rfl
@[simp] theorem State.setCoefs_cfg0 (s : State) (k : PReg) (w : Coefs) : (s.setCoefs k w).cfg0 = s.cfg0 := rfl
@[simp] theorem State.setCoefs_cfg1 (s : State) (k : PReg) (w : Coefs) : (s.setCoefs k w).cfg1 = s.cfg1 := rfl
@[simp] theorem State.setCoefs_cfg2 (s : State) (k : PReg) (w : Coefs) : (s.setCoefs k w).cfg2 = s.cfg2 := rfl
@[simp] theorem State.setCoefs_g (s : State) (k : PReg) (w : Coefs) : (s.setCoefs k w).g = s.g := rfl
@[simp] theorem State.setCoefs_port (s : State) (k : PReg) (w : Coefs) : (s.setCoefs k w).port = s.port := rfl
@[simp] theorem State.setCoefs_responses (s : State) (k : PReg) (w : Coefs) : (s.setCoefs k w).responses = s.responses := rfl

@[simp] theorem State.setDeg_e (s : State) (k : PReg) (d : Int) : (s.setDeg k d).e = s.e := rfl
@[simp] theorem State.setDeg_p (s : State) (k : PReg) (d : Int) : (s.setDeg k d).p = s.p.set k { s.poly k with deg := d } := rfl
@[simp] theorem State.setDeg_status (s : State) (k : PReg) (d : Int) : (s.setDeg k d).status = s.status := rfl
@[simp] theorem State.setDeg_bitpos (s : State) (k : PReg) (d : Int) : (s.setDeg k d).bitpos = s.bitpos := rfl
@[simp] theorem State.setDeg_cfg0 (s : State) (k : PReg) (d : Int) : (s.setDeg k d).cfg0 = s.cfg0 := rfl
@[simp] theorem State.setDeg_cfg1 (s : State) (k : PReg) (d : Int) : (s.setDeg k d).cfg1 = s.cfg1 := rfl
@[simp] theorem State.setDeg_cfg2 (s : State) (k : PReg) (d : Int) : (s.setDeg k d).cfg2 = s.cfg2 := rfl
@[simp] theorem State.setDeg_g (s : State) (k : PReg) (d : Int) : (s.setDeg k d).g = s.g := rfl
@[simp] theorem State.setDeg_port (s : State) (k : PReg) (d : Int) : (s.setDeg k d).port = s.port := rfl
@[simp] theorem State.setDeg_responses (s : State) (k : PReg) (d : Int) : (s.setDeg k d).responses = s.responses := rfl

@[simp] theorem State.setStatus_e (s : State) (st : Half) : (s.setStatus st).e = s.e := rfl
@[simp] theorem State.setStatus_p (s : State) (st : Half) : (s.setStatus st).p = s.p := rfl
@[simp] theorem State.setStatus_status (s : State) (st : Half) : (s.setStatus st).status = st := rfl
@[simp] theorem State.setStatus_bitpos (s : State) (st : Half) : (s.setStatus st).bitpos = s.bitpos := rfl
@[simp] theorem State.setStatus_cfg0 (s : State) (st : Half) : (s.setStatus st).cfg0 = s.cfg0 := rfl
@[simp] theorem State.setStatus_cfg1 (s : State) (st : Half) : (s.setStatus st).cfg1 = s.cfg1 := rfl
@[simp] theorem State.setStatus_cfg2 (s : State) (st : Half) : (s.setStatus st).cfg2 = s.cfg2 := rfl
@[simp] theorem State.setStatus_g (s : State) (st : Half) : (s.setStatus st).g = s.g := rfl
@[simp] theorem State.setStatus_port (s : State) (st : Half) : (s.setStatus st).port = s.port := rfl
@[simp] theorem State.setStatus_responses (s : State) (st : Half) : (s.setStatus st).responses = s.responses := rfl

@[simp] theorem State.setBitpos_e (s : State) (n : Nat) : (s.setBitpos n).e = s.e := rfl
@[simp] theorem State.setBitpos_p (s : State) (n : Nat) : (s.setBitpos n).p = s.p := rfl
@[simp] theorem State.setBitpos_status (s : State) (n : Nat) : (s.setBitpos n).status = s.status := rfl
@[simp] theorem State.setBitpos_bitpos (s : State) (n : Nat) : (s.setBitpos n).bitpos = BitVec.ofNat 8 n := rfl
@[simp] theorem State.setBitpos_cfg0 (s : State) (n : Nat) : (s.setBitpos n).cfg0 = s.cfg0 := rfl
@[simp] theorem State.setBitpos_cfg1 (s : State) (n : Nat) : (s.setBitpos n).cfg1 = s.cfg1 := rfl
@[simp] theorem State.setBitpos_cfg2 (s : State) (n : Nat) : (s.setBitpos n).cfg2 = s.cfg2 := rfl
@[simp] theorem State.setBitpos_g (s : State) (n : Nat) : (s.setBitpos n).g = s.g := rfl
@[simp] theorem State.setBitpos_port (s : State) (n : Nat) : (s.setBitpos n).port = s.port := rfl
@[simp] theorem State.setBitpos_responses (s : State) (n : Nat) : (s.setBitpos n).responses = s.responses := rfl

@[simp] theorem State.answer_e (s : State) (r : Word) : (s.answer r).e = s.e := rfl
@[simp] theorem State.answer_p (s : State) (r : Word) : (s.answer r).p = s.p := rfl
@[simp] theorem State.answer_status (s : State) (r : Word) : (s.answer r).status = s.status := rfl
@[simp] theorem State.answer_bitpos (s : State) (r : Word) : (s.answer r).bitpos = s.bitpos := rfl
@[simp] theorem State.answer_cfg0 (s : State) (r : Word) : (s.answer r).cfg0 = s.cfg0 := rfl
@[simp] theorem State.answer_cfg1 (s : State) (r : Word) : (s.answer r).cfg1 = s.cfg1 := rfl
@[simp] theorem State.answer_cfg2 (s : State) (r : Word) : (s.answer r).cfg2 = s.cfg2 := rfl
@[simp] theorem State.answer_g (s : State) (r : Word) : (s.answer r).g = s.g := rfl
@[simp] theorem State.answer_port (s : State) (r : Word) : (s.answer r).port = s.port := rfl
@[simp] theorem State.answer_responses (s : State) (r : Word) : (s.answer r).responses = s.responses ++ [r] := rfl

@[simp] theorem State.respond_e (s : State) (d : Half) : (s.respond d).e = s.e := rfl
@[simp] theorem State.respond_p (s : State) (d : Half) : (s.respond d).p = s.p := rfl
@[simp] theorem State.respond_status (s : State) (d : Half) : (s.respond d).status = s.status := rfl
@[simp] theorem State.respond_bitpos (s : State) (d : Half) : (s.respond d).bitpos = s.bitpos := rfl
@[simp] theorem State.respond_cfg0 (s : State) (d : Half) : (s.respond d).cfg0 = s.cfg0 := rfl
@[simp] theorem State.respond_cfg1 (s : State) (d : Half) : (s.respond d).cfg1 = s.cfg1 := rfl
@[simp] theorem State.respond_cfg2 (s : State) (d : Half) : (s.respond d).cfg2 = s.cfg2 := rfl
@[simp] theorem State.respond_g (s : State) (d : Half) : (s.respond d).g = s.g := rfl
@[simp] theorem State.respond_port (s : State) (d : Half) : (s.respond d).port = s.port := rfl
@[simp] theorem State.respond_responses (s : State) (d : Half) : (s.respond d).responses = s.responses ++ [dataResponse d] := rfl

@[simp] theorem State.respondElem_e (s : State) (v : Elem) : (s.respondElem v).e = s.e := rfl
@[simp] theorem State.respondElem_p (s : State) (v : Elem) : (s.respondElem v).p = s.p := rfl
@[simp] theorem State.respondElem_status (s : State) (v : Elem) : (s.respondElem v).status = s.status := rfl
@[simp] theorem State.respondElem_bitpos (s : State) (v : Elem) : (s.respondElem v).bitpos = s.bitpos := rfl
@[simp] theorem State.respondElem_cfg0 (s : State) (v : Elem) : (s.respondElem v).cfg0 = s.cfg0 := rfl
@[simp] theorem State.respondElem_cfg1 (s : State) (v : Elem) : (s.respondElem v).cfg1 = s.cfg1 := rfl
@[simp] theorem State.respondElem_cfg2 (s : State) (v : Elem) : (s.respondElem v).cfg2 = s.cfg2 := rfl
@[simp] theorem State.respondElem_g (s : State) (v : Elem) : (s.respondElem v).g = s.g := rfl
@[simp] theorem State.respondElem_port (s : State) (v : Elem) : (s.respondElem v).port = s.port := rfl
@[simp] theorem State.respondElem_responses (s : State) (v : Elem) : (s.respondElem v).responses = s.responses ++ [dataResponse (v.setWidth 16)] := rfl

@[simp] theorem State.raise_e (s : State) (f : FaultCode) : (s.raise f).e = s.e := rfl
@[simp] theorem State.raise_p (s : State) (f : FaultCode) : (s.raise f).p = s.p := rfl
@[simp] theorem State.raise_status (s : State) (f : FaultCode) : (s.raise f).status = withFault s.status f := rfl
@[simp] theorem State.raise_bitpos (s : State) (f : FaultCode) : (s.raise f).bitpos = s.bitpos := rfl
@[simp] theorem State.raise_cfg0 (s : State) (f : FaultCode) : (s.raise f).cfg0 = s.cfg0 := rfl
@[simp] theorem State.raise_cfg1 (s : State) (f : FaultCode) : (s.raise f).cfg1 = s.cfg1 := rfl
@[simp] theorem State.raise_cfg2 (s : State) (f : FaultCode) : (s.raise f).cfg2 = s.cfg2 := rfl
@[simp] theorem State.raise_g (s : State) (f : FaultCode) : (s.raise f).g = s.g := rfl
@[simp] theorem State.raise_port (s : State) (f : FaultCode) : (s.raise f).port = s.port := rfl
@[simp] theorem State.raise_responses (s : State) (f : FaultCode) : (s.raise f).responses = s.responses ++ [faultResponse f.code] := rfl

@[simp] theorem State.refuse_e (s : State) : (s.refuse).e = s.e := rfl
@[simp] theorem State.refuse_p (s : State) : (s.refuse).p = s.p := rfl
@[simp] theorem State.refuse_status (s : State) : (s.refuse).status = s.status := rfl
@[simp] theorem State.refuse_bitpos (s : State) : (s.refuse).bitpos = s.bitpos := rfl
@[simp] theorem State.refuse_cfg0 (s : State) : (s.refuse).cfg0 = s.cfg0 := rfl
@[simp] theorem State.refuse_cfg1 (s : State) : (s.refuse).cfg1 = s.cfg1 := rfl
@[simp] theorem State.refuse_cfg2 (s : State) : (s.refuse).cfg2 = s.cfg2 := rfl
@[simp] theorem State.refuse_g (s : State) : (s.refuse).g = s.g := rfl
@[simp] theorem State.refuse_port (s : State) : (s.refuse).port = s.port := rfl
@[simp] theorem State.refuse_responses (s : State) : (s.refuse).responses = s.responses ++ [faultResponse 15] := rfl

@[simp] theorem State.deliver_e (s : State) (r : EReg) (v : Elem) : (s.deliver r v).e = s.e.set r v := rfl
@[simp] theorem State.deliver_p (s : State) (r : EReg) (v : Elem) : (s.deliver r v).p = s.p := rfl
@[simp] theorem State.deliver_status (s : State) (r : EReg) (v : Elem) : (s.deliver r v).status = s.status := rfl
@[simp] theorem State.deliver_bitpos (s : State) (r : EReg) (v : Elem) : (s.deliver r v).bitpos = s.bitpos := rfl
@[simp] theorem State.deliver_cfg0 (s : State) (r : EReg) (v : Elem) : (s.deliver r v).cfg0 = s.cfg0 := rfl
@[simp] theorem State.deliver_cfg1 (s : State) (r : EReg) (v : Elem) : (s.deliver r v).cfg1 = s.cfg1 := rfl
@[simp] theorem State.deliver_cfg2 (s : State) (r : EReg) (v : Elem) : (s.deliver r v).cfg2 = s.cfg2 := rfl
@[simp] theorem State.deliver_g (s : State) (r : EReg) (v : Elem) : (s.deliver r v).g = s.g := rfl
@[simp] theorem State.deliver_port (s : State) (r : EReg) (v : Elem) : (s.deliver r v).port = s.port := rfl
@[simp] theorem State.deliver_responses (s : State) (r : EReg) (v : Elem) : (s.deliver r v).responses = s.responses ++ [dataResponse (v.setWidth 16)] := rfl

@[simp] theorem State.deliverPoly_e (s : State) (k : PReg) (q : PolyReg) : (s.deliverPoly k q).e = s.e := rfl
@[simp] theorem State.deliverPoly_p (s : State) (k : PReg) (q : PolyReg) : (s.deliverPoly k q).p = s.p.set k q := rfl
@[simp] theorem State.deliverPoly_status (s : State) (k : PReg) (q : PolyReg) : (s.deliverPoly k q).status = s.status := rfl
@[simp] theorem State.deliverPoly_bitpos (s : State) (k : PReg) (q : PolyReg) : (s.deliverPoly k q).bitpos = s.bitpos := rfl
@[simp] theorem State.deliverPoly_cfg0 (s : State) (k : PReg) (q : PolyReg) : (s.deliverPoly k q).cfg0 = s.cfg0 := rfl
@[simp] theorem State.deliverPoly_cfg1 (s : State) (k : PReg) (q : PolyReg) : (s.deliverPoly k q).cfg1 = s.cfg1 := rfl
@[simp] theorem State.deliverPoly_cfg2 (s : State) (k : PReg) (q : PolyReg) : (s.deliverPoly k q).cfg2 = s.cfg2 := rfl
@[simp] theorem State.deliverPoly_g (s : State) (k : PReg) (q : PolyReg) : (s.deliverPoly k q).g = s.g := rfl
@[simp] theorem State.deliverPoly_port (s : State) (k : PReg) (q : PolyReg) : (s.deliverPoly k q).port = s.port := rfl
@[simp] theorem State.deliverPoly_responses (s : State) (k : PReg) (q : PolyReg) : (s.deliverPoly k q).responses = s.responses ++ [dataResponse (degreeData q.deg)] := rfl

@[simp] theorem State.resetBlock_e (s : State) : (s.resetBlock).e = State.reset.e := rfl
@[simp] theorem State.resetBlock_p (s : State) : (s.resetBlock).p = State.reset.p := rfl
@[simp] theorem State.resetBlock_status (s : State) : (s.resetBlock).status = State.reset.status := rfl
@[simp] theorem State.resetBlock_bitpos (s : State) : (s.resetBlock).bitpos = State.reset.bitpos := rfl
@[simp] theorem State.resetBlock_cfg0 (s : State) : (s.resetBlock).cfg0 = State.reset.cfg0 := rfl
@[simp] theorem State.resetBlock_cfg1 (s : State) : (s.resetBlock).cfg1 = State.reset.cfg1 := rfl
@[simp] theorem State.resetBlock_cfg2 (s : State) : (s.resetBlock).cfg2 = State.reset.cfg2 := rfl
@[simp] theorem State.resetBlock_g (s : State) : (s.resetBlock).g = State.reset.g := rfl
@[simp] theorem State.resetBlock_port (s : State) : (s.resetBlock).port = s.port := rfl
@[simp] theorem State.resetBlock_responses (s : State) : (s.resetBlock).responses = s.responses := rfl

end Sys2Proof.Machine
end

