-- ==== Sys2Proof/Laws/Registers.lean ====
section
/-! SUPPORT. Reading a register after a write, for the element registers, the polynomial registers and their
coefficients. -/

namespace Sys2Proof.Machine

/-! ### Coefficients -/

theorem coefAt_of_lt (w : Coefs) (i : Nat) (h : i < 14) : coefAt w i = w[i] := by
  simp [coefAt, h]

theorem coefAt_of_ge (w : Coefs) (i : Nat) (h : 14 ≤ i) : coefAt w i = 0 := by
  simp [coefAt, h]

/-- A write to a coefficient that exists is read back, and every other coefficient is as it was. -/
theorem coefAt_setCoefAt (w : Coefs) (i j : Nat) (v : Elem) :
    coefAt (setCoefAt w i v) j = if i = j ∧ i < 14 then v else coefAt w j := by
  unfold coefAt setCoefAt
  by_cases hj : j < 14
  · rw [Vector.getElem?_eq_getElem hj, Vector.getElem?_eq_getElem hj]
    simp only [Option.getD_some, Vector.getElem_setIfInBounds]
    by_cases h : i = j <;> simp [h, hj]
  · have : ¬ (i = j ∧ i < 14) := by omega
    simp [hj, this]

@[simp] theorem coefAt_setCoefAt_self (w : Coefs) (i : Nat) (v : Elem) (h : i < 14) :
    coefAt (setCoefAt w i v) i = v := by simp [coefAt_setCoefAt, h]

@[simp] theorem coefAt_setCoefAt_ne (w : Coefs) (i j : Nat) (v : Elem) (h : i ≠ j) :
    coefAt (setCoefAt w i v) j = coefAt w j := by simp [coefAt_setCoefAt, h]

/-- Two words with the same fourteen coefficients are the same word. -/
theorem coefs_ext (w w' : Coefs) (h : ∀ i, i < 14 → coefAt w i = coefAt w' i) : w = w' := by
  apply Vector.ext
  intro i hi
  have := h i hi
  rwa [coefAt_of_lt w i hi, coefAt_of_lt w' i hi] at this

theorem coefAt_coefsOf (f : Nat → Elem) (i : Nat) (h : i < 14) : coefAt (coefsOf f) i = f i := by
  have : i = 0 ∨ i = 1 ∨ i = 2 ∨ i = 3 ∨ i = 4 ∨ i = 5 ∨ i = 6 ∨ i = 7 ∨ i = 8 ∨ i = 9 ∨ i = 10 ∨ i = 11 ∨ i = 12
      ∨ i = 13 := by omega
  rcases this with h | h | h | h | h | h | h | h | h | h | h | h | h | h <;> subst h <;> rfl

@[simp] theorem coefAt_replicate (i : Nat) : coefAt (Vector.replicate 14 0) i = 0 := by
  by_cases h : i < 14
  · simp [coefAt, h]
  · exact coefAt_of_ge _ _ (by omega)

/-! ### Element registers -/

theorem State.elem_setElem (s : State) (r r' : EReg) (v : Elem) :
    (s.setElem r v).elem r' = if r' = r then v else s.elem r' := by
  by_cases h : r' = r
  · subst h; simp [State.elem, State.setElem]
  · have : (r : Nat) ≠ (r' : Nat) := fun e => h (Fin.ext e.symm)
    simp [State.elem, State.setElem, h, this]

@[simp] theorem State.elem_setElem_self (s : State) (r : EReg) (v : Elem) : (s.setElem r v).elem r = v := by
  simp [State.elem_setElem]

theorem State.elem_setElem_ne (s : State) (r r' : EReg) (v : Elem) (h : r' ≠ r) :
    (s.setElem r v).elem r' = s.elem r' := by simp [State.elem_setElem, h]

/-- Writing a register with what it holds changes nothing. -/
theorem State.setElem_elem (s : State) (r : EReg) : s.setElem r (s.elem r) = s := by
  cases s; simp [State.setElem, State.elem]

/-! ### Polynomial registers -/

theorem State.poly_setPoly (s : State) (k k' : PReg) (q : PolyReg) :
    (s.setPoly k q).poly k' = if k' = k then q else s.poly k' := by
  by_cases h : k' = k
  · subst h; simp [State.poly, State.setPoly]
  · have : (k : Nat) ≠ (k' : Nat) := fun e => h (Fin.ext e.symm)
    simp [State.poly, State.setPoly, h, this]

@[simp] theorem State.poly_setPoly_self (s : State) (k : PReg) (q : PolyReg) : (s.setPoly k q).poly k = q := by
  simp [State.poly_setPoly]

theorem State.poly_setPoly_ne (s : State) (k k' : PReg) (q : PolyReg) (h : k' ≠ k) :
    (s.setPoly k q).poly k' = s.poly k' := by simp [State.poly_setPoly, h]

/-! ### Reads through the other updates -/

@[simp] theorem State.elem_setPoly (s : State) (k : PReg) (q : PolyReg) (r : EReg) :
    (s.setPoly k q).elem r = s.elem r := rfl
@[simp] theorem State.elem_setStatus (s : State) (st : Half) (r : EReg) : (s.setStatus st).elem r = s.elem r := rfl
@[simp] theorem State.elem_setBitpos (s : State) (n : Nat) (r : EReg) : (s.setBitpos n).elem r = s.elem r := rfl
@[simp] theorem State.elem_answer (s : State) (w : Word) (r : EReg) : (s.answer w).elem r = s.elem r := rfl
@[simp] theorem State.poly_setElem (s : State) (r : EReg) (v : Elem) (k : PReg) :
    (s.setElem r v).poly k = s.poly k := rfl
@[simp] theorem State.poly_setStatus (s : State) (st : Half) (k : PReg) : (s.setStatus st).poly k = s.poly k := rfl
@[simp] theorem State.poly_setBitpos (s : State) (n : Nat) (k : PReg) : (s.setBitpos n).poly k = s.poly k := rfl
@[simp] theorem State.poly_answer (s : State) (w : Word) (k : PReg) : (s.answer w).poly k = s.poly k := rfl

end Sys2Proof.Machine
end

