-- ==== Sys2Proof/Laws/BitSpace.lean ====
section
/-! SUPPORT. What reading and writing do to the bits of the bit space (R42, R140). -/

namespace Sys2Proof.Machine

theorem getLsbD_setElemBit (a : Elem) (b i : Nat) (x : Bool) (hb : b < 11) :
    (setElemBit a b x).getLsbD i = if i = b then x else a.getLsbD i := by
  have one : ∀ j, (1#11).getLsbD j = decide (j = 0) := by
    intro j; rcases j with _ | j <;> simp
  by_cases hi : i < 11
  · cases x <;> simp only [setElemBit, BitVec.getLsbD_or, BitVec.getLsbD_and, BitVec.getLsbD_not,
      BitVec.getLsbD_shiftLeft, one, hi, if_true, if_false, Bool.false_eq_true, decide_true, Bool.true_and] <;>
      by_cases h : i = b <;> by_cases h' : i < b <;> simp [h, h'] <;> omega
  · have : i ≠ b := by omega
    simp [this, BitVec.getLsbD_of_ge _ i (by omega : 11 ≤ i)]

/-- The written bit reads as written, and every other offset below 154 reads as before. -/
theorem bitAt_setBitAt (w : Coefs) (pos pos' : Nat) (x : Bool) (h : pos < 154) :
    bitAt (setBitAt w pos x) pos' = if pos' = pos then x else bitAt w pos' := by
  unfold bitAt setBitAt coefOfBit bitOfBit
  rw [coefAt_setCoefAt]
  by_cases hq : pos / 11 = pos' / 11 ∧ pos / 11 < 14
  · rw [if_pos hq, getLsbD_setElemBit _ _ _ _ (by omega), hq.1]
    by_cases hp : pos' = pos
    · subst hp; simp
    · have : 10 - pos' % 11 ≠ 10 - pos % 11 := by omega
      simp [hp, this]
  · have : pos' ≠ pos := by rintro rfl; exact hq ⟨rfl, by omega⟩
    simp only [if_neg hq, if_neg this]

/-- `BitsWrite` places the `n` bits from offset `pos` on, the most significant first, and changes no other bit (R140). -/
theorem bitAt_bitsWrite (w : Coefs) (pos n : Nat) (v : Elem) (h : pos + n ≤ 154) (q : Nat) :
    bitAt (bitsWrite w pos n v) q =
      if pos ≤ q ∧ q < pos + n then v.getLsbD (n - 1 - (q - pos)) else bitAt w q := by
  have rounds : ∀ t, t ≤ n → bitAt (bitsWriteUpTo w pos n v t) q =
      if pos ≤ q ∧ q < pos + t then v.getLsbD (n - 1 - (q - pos)) else bitAt w q := by
    intro t
    induction t with
    | zero => intro _; rw [if_neg (by omega)]; rfl
    | succ t ih =>
      intro ht
      rw [bitsWriteUpTo, bitAt_setBitAt _ _ _ _ (by omega), ih (by omega)]
      by_cases hq : q = pos + t
      · subst hq
        rw [if_pos rfl, if_pos (by omega), Nat.add_sub_cancel_left]
      · have : (pos ≤ q ∧ q < pos + (t + 1)) ↔ (pos ≤ q ∧ q < pos + t) := by omega
        simp only [if_neg hq, this]
  exact rounds n (Nat.le_refl n)

/-- `BitsRead` delivers the `n` bits from offset `pos` on, the most significant first, and zeros above them (R140). -/
theorem getLsbD_bitsRead (w : Coefs) (pos n : Nat) (h : n ≤ 11) (i : Nat) :
    (bitsRead w pos n).getLsbD i = (decide (i < n) && bitAt w (pos + (n - 1 - i))) := by
  induction n generalizing i with
  | zero => simp [bitsRead]
  | succ n ih =>
    rw [bitsRead, BitVec.getLsbD_or, BitVec.getLsbD_shiftLeft, ih (by omega)]
    rcases i with _ | i
    · simp
    · have e : n - 1 - i = n - (i + 1) := by omega
      by_cases hi : i < n
      · simp [hi, e, show i + 1 < 11 by omega]
      · simp [hi]

end Sys2Proof.Machine
end

