-- ==== Sys2Proof/Laws/Flags.lean ====
section
/-! SUPPORT. What each write of STATUS leaves in each of its fields. -/

namespace Sys2Proof.Machine

/-- `withOk` writes bit 0 and keeps every other bit. -/
theorem getLsbD_withOk (st : Half) (b : Bool) (i : Nat) :
    (withOk st b).getLsbD i = if i = 0 then b else st.getLsbD i := by
  by_cases hi : i < 16
  · have : i = 0 ∨ i = 1 ∨ i = 2 ∨ i = 3 ∨ i = 4 ∨ i = 5 ∨ i = 6 ∨ i = 7 ∨ i = 8 ∨ i = 9 ∨ i = 10 ∨ i = 11 ∨ i = 12
      ∨ i = 13 ∨ i = 14 ∨ i = 15 := by omega
    rcases this with h | h | h | h | h | h | h | h | h | h | h | h | h | h | h | h <;> subst h <;>
      cases b <;> simp [withOk, flagData]
  · have : i ≠ 0 := by omega
    simp [this, BitVec.getLsbD_of_ge _ i (by omega : 16 ≤ i)]

/-- `withEq` writes bit 1 and keeps every other bit. -/
theorem getLsbD_withEq (st : Half) (b : Bool) (i : Nat) :
    (withEq st b).getLsbD i = if i = 1 then b else st.getLsbD i := by
  by_cases hi : i < 16
  · have : i = 0 ∨ i = 1 ∨ i = 2 ∨ i = 3 ∨ i = 4 ∨ i = 5 ∨ i = 6 ∨ i = 7 ∨ i = 8 ∨ i = 9 ∨ i = 10 ∨ i = 11 ∨ i = 12
      ∨ i = 13 ∨ i = 14 ∨ i = 15 := by omega
    rcases this with h | h | h | h | h | h | h | h | h | h | h | h | h | h | h | h <;> subst h <;>
      cases b <;> simp [withEq, flagData]
  · have : i ≠ 1 := by omega
    simp [this, BitVec.getLsbD_of_ge _ i (by omega : 16 ≤ i)]

/-- `withFault` writes F (bit 8) and FCODE (bits 7:4) and keeps every other bit. -/
theorem getLsbD_withFault (st : Half) (f : FaultCode) (i : Nat) :
    (withFault st f).getLsbD i =
      if i = 8 then true else if 4 ≤ i ∧ i ≤ 7 then f.code.getLsbD (i - 4) else st.getLsbD i := by
  by_cases hi : i < 16
  · have : i = 0 ∨ i = 1 ∨ i = 2 ∨ i = 3 ∨ i = 4 ∨ i = 5 ∨ i = 6 ∨ i = 7 ∨ i = 8 ∨ i = 9 ∨ i = 10 ∨ i = 11 ∨ i = 12
      ∨ i = 13 ∨ i = 14 ∨ i = 15 := by omega
    rcases this with h | h | h | h | h | h | h | h | h | h | h | h | h | h | h | h <;> subst h <;>
      cases f <;> simp [withFault, FaultCode.code]
  · have h8 : i ≠ 8 := by omega
    have h4 : ¬ (4 ≤ i ∧ i ≤ 7) := by omega
    simp [h8, h4, BitVec.getLsbD_of_ge _ i (by omega : 16 ≤ i)]

@[simp] theorem statusOk_withOk (st : Half) (b : Bool) : statusOk (withOk st b) = b :=
  getLsbD_withOk st b 0
@[simp] theorem statusEq_withOk (st : Half) (b : Bool) : statusEq (withOk st b) = statusEq st :=
  getLsbD_withOk st b 1
@[simp] theorem statusF_withOk (st : Half) (b : Bool) : statusF (withOk st b) = statusF st :=
  getLsbD_withOk st b 8
@[simp] theorem statusOk_withEq (st : Half) (b : Bool) : statusOk (withEq st b) = statusOk st :=
  getLsbD_withEq st b 0
@[simp] theorem statusEq_withEq (st : Half) (b : Bool) : statusEq (withEq st b) = b :=
  getLsbD_withEq st b 1
@[simp] theorem statusF_withEq (st : Half) (b : Bool) : statusF (withEq st b) = statusF st :=
  getLsbD_withEq st b 8
@[simp] theorem statusOk_withFault (st : Half) (f : FaultCode) : statusOk (withFault st f) = statusOk st :=
  getLsbD_withFault st f 0
@[simp] theorem statusEq_withFault (st : Half) (f : FaultCode) : statusEq (withFault st f) = statusEq st :=
  getLsbD_withFault st f 1
@[simp] theorem statusF_withFault (st : Half) (f : FaultCode) : statusF (withFault st f) = true :=
  getLsbD_withFault st f 8

@[simp] theorem statusFcode_withOk (st : Half) (b : Bool) : statusFcode (withOk st b) = statusFcode st := by
  apply BitVec.eq_of_getLsbD_eq
  intro i hi
  simp [statusFcode, BitVec.getLsbD_extractLsb', getLsbD_withOk]
@[simp] theorem statusFcode_withEq (st : Half) (b : Bool) : statusFcode (withEq st b) = statusFcode st := by
  apply BitVec.eq_of_getLsbD_eq
  intro i hi
  simp [statusFcode, BitVec.getLsbD_extractLsb', getLsbD_withEq, show 4 + i ≠ 1 by omega]
@[simp] theorem statusFcode_withFault (st : Half) (f : FaultCode) : statusFcode (withFault st f) = f.code := by
  apply BitVec.eq_of_getLsbD_eq
  intro i hi
  simp [statusFcode, getLsbD_withFault, hi, show 4 + i ≠ 8 by omega,
    show 4 + i ≤ 7 by omega]

end Sys2Proof.Machine
end

