-- ==== Sys2Proof/Laws/Ops.lean ====
section
/-! SUPPORT. What the shared operations of Machine/Ops.lean can do, said once each. -/

namespace Sys2Proof.Machine

/-- The FAULTED test answers REFUSED in the FAULTED state and lets the command through in the RUNNING state. -/
theorem State.whenRunning_cases (s k : State) :
    (s.Faulted ∧ s.whenRunning k = s.refuse) ∨ (s.Running ∧ s.whenRunning k = k) := by
  unfold State.whenRunning
  cases h : statusF s.status
  · exact .inr ⟨h, by simp⟩
  · exact .inl ⟨h, by simp⟩

@[simp] theorem State.whenRunning_of_running (s k : State) (h : s.Running) : s.whenRunning k = k := by
  simp [State.whenRunning, h]

@[simp] theorem State.whenRunning_of_faulted (s k : State) (h : s.Faulted) : s.whenRunning k = s.refuse := by
  simp [State.whenRunning, h]

/-- A refused command changes the block in nothing. -/
theorem State.sameBlock_refuse (s : State) : SameBlock s s.refuse := by simp [SameBlock]

/-- An executed command's response has F = 0 and carries its DATA. -/
theorem responseF_dataResponse (d : Half) : responseF (dataResponse d) = false := by
  simp [responseF, dataResponse]

theorem responseData_dataResponse (d : Half) : responseData (dataResponse d) = d := by
  apply BitVec.eq_of_getLsbD_eq
  intro i hi
  simp [responseData, dataResponse, BitVec.getLsbD_setWidth, hi]
  omega

/-- A faulting or refused command's response has F = 1. -/
theorem responseF_faultResponse (c : BitVec 4) : responseF (faultResponse c) = true := by
  simp [responseF, faultResponse]

theorem faultResponse_code (f : FaultCode) :
    faultResponse f.code = BitVec.ofNat 32 (0x80000000 + f.code.toNat * 2 ^ 24) := by
  cases f <;> decide

/-- An illegal word is refused in the FAULTED state and raises ILLEGAL in the RUNNING state. -/
theorem State.rejectWord_cases (s : State) :
    (s.Faulted ∧ s.rejectWord = s.refuse) ∨ (s.Running ∧ s.rejectWord = s.raise .illegal) :=
  s.whenRunning_cases _

/-- Everything that can stand at the command port. -/
theorem State.takeEvent_cases (s : State) :
    (s.port = [] ∧ s.takeEvent = .idle) ∨
    (∃ w rest i, s.port = .command w :: rest ∧ decode w = .ok i ∧ s.takeEvent = .instr i { s with port := rest }) ∨
    (∃ w rest d, s.port = .command w :: rest ∧ decode w = .error d ∧ s.takeEvent = .illegal { s with port := rest }) ∨
    (∃ ev rest, s.port = ev :: rest ∧ (ev = .hardReset ∨ ∃ w, ev = .cutCommand w) ∧
      s.takeEvent = .reset { s with port := rest }) := by
  unfold State.takeEvent
  cases hp : s.port with
  | nil => exact .inl ⟨rfl, rfl⟩
  | cons ev rest =>
    cases ev with
    | command w =>
      cases hd : decode w with
      | ok i => exact .inr (.inl ⟨w, rest, i, rfl, hd, by simp [hd]⟩)
      | error d => exact .inr (.inr (.inl ⟨w, rest, d, rfl, hd, by simp [hd]⟩))
    | hardReset => exact .inr (.inr (.inr ⟨_, rest, rfl, .inl rfl, rfl⟩))
    | cutCommand w => exact .inr (.inr (.inr ⟨_, rest, rfl, .inr ⟨w, rfl⟩, rfl⟩))

/-- The write shared by PL.WRC and PL.WRCI: a coefficient that exists is replaced, any other index raises OPERAND. -/
theorem State.writeCoef_cases (s : State) (pd : PReg) (idx : Nat) (v : Elem) :
    (idx < 14 ∧ s.writeCoef pd idx v = (s.setCoefs pd (setCoefAt (s.poly pd).c idx v)).respondElem v) ∨
    (14 ≤ idx ∧ s.writeCoef pd idx v = s.raise .operand) := by
  by_cases h : idx < 14
  · exact .inl ⟨h, by simp [State.writeCoef, coefIndexLegal, h]⟩
  · exact .inr ⟨by omega, by simp [State.writeCoef, coefIndexLegal, h]⟩

end Sys2Proof.Machine
end

