-- ==== Sys2Proof/Laws/PerInstr.lean ====
section
/-! SUPPORT. One family of statements per instruction: the encoded word carries the instruction's opcode and operands.
-/

namespace Sys2Proof

/-- What packWord puts in OPC and in each field is read back from there, when each operand fits its field. A field that
an instruction does not use holds 0, which fits by computation. -/
theorem fields_packWord (opc : Nat) (o : Operands)
    (h : opc < 64 := by exact Nat.le_of_ble_eq_true rfl)
    (h1 : o.rd < 8 := by exact Nat.le_of_ble_eq_true rfl) (h2 : o.ra < 8 := by exact Nat.le_of_ble_eq_true rfl)
    (h3 : o.rb < 8 := by exact Nat.le_of_ble_eq_true rfl) (h4 : o.pd < 2 := by exact Nat.le_of_ble_eq_true rfl)
    (h5 : o.ps < 2 := by exact Nat.le_of_ble_eq_true rfl) (h6 : o.idx < 16 := by exact Nat.le_of_ble_eq_true rfl)
    (h7 : o.imm < 2048 := by exact Nat.le_of_ble_eq_true rfl) :
    opcodeOf (packWord opc o) = opc ∧ fieldOf (packWord opc o) .rd = o.rd ∧ fieldOf (packWord opc o) .ra = o.ra ∧
    fieldOf (packWord opc o) .rb = o.rb ∧ fieldOf (packWord opc o) .pd = o.pd ∧ fieldOf (packWord opc o) .ps = o.ps ∧
    fieldOf (packWord opc o) .idx = o.idx ∧ fieldOf (packWord opc o) .imm = o.imm := by
  simp only [opcodeOf, fieldOf, wordBits, packWord, Field.place, BitVec.toNat_ofNat]
  refine ⟨?_, ?_, ?_, ?_, ?_, ?_, ?_, ?_⟩ <;> omega

namespace Laws.EncodedFields

/-- The word of a well-formed instruction carries its opcode in OPC and each operand in its field (R61, R63). -/
def Statement (i : Instr) : Prop :=
  WellFormed i = true →
    opcodeOf (encode i) = i.opcode ∧ fieldOf (encode i) .rd = i.operands.rd ∧ fieldOf (encode i) .ra = i.operands.ra ∧
    fieldOf (encode i) .rb = i.operands.rb ∧ fieldOf (encode i) .pd = i.operands.pd ∧
    fieldOf (encode i) .ps = i.operands.ps ∧ fieldOf (encode i) .idx = i.operands.idx ∧
    fieldOf (encode i) .imm = i.operands.imm

theorem sysNop : Statement (.sysNop) :=
  fun _ => fields_packWord _ _

theorem sysRdcr (idx : Nat) : Statement (.sysRdcr idx) :=
  fun h => fields_packWord _ _ (h6 := of_decide_eq_true h)

theorem sysRst : Statement (.sysRst) :=
  fun _ => fields_packWord _ _

theorem gfLdi (rd : EReg) (imm : Nat) : Statement (.gfLdi rd imm) :=
  fun h => fields_packWord _ _ (h1 := rd.isLt) (h7 := of_decide_eq_true h)

theorem gfMov (rd ra : EReg) : Statement (.gfMov rd ra) :=
  fun _ => fields_packWord _ _ (h1 := rd.isLt) (h2 := ra.isLt)

theorem gfAdd (rd ra rb : EReg) : Statement (.gfAdd rd ra rb) :=
  fun _ => fields_packWord _ _ (h1 := rd.isLt) (h2 := ra.isLt) (h3 := rb.isLt)

theorem gfMul (rd ra rb : EReg) : Statement (.gfMul rd ra rb) :=
  fun _ => fields_packWord _ _ (h1 := rd.isLt) (h2 := ra.isLt) (h3 := rb.isLt)

theorem gfInv (rd ra : EReg) : Statement (.gfInv rd ra) :=
  fun _ => fields_packWord _ _ (h1 := rd.isLt) (h2 := ra.isLt)

theorem gfPow (rd ra : EReg) (imm : Nat) : Statement (.gfPow rd ra imm) :=
  fun h => fields_packWord _ _ (h1 := rd.isLt) (h2 := ra.isLt) (h7 := of_decide_eq_true h)

theorem gfEq (ra rb : EReg) : Statement (.gfEq ra rb) :=
  fun _ => fields_packWord _ _ (h2 := ra.isLt) (h3 := rb.isLt)

theorem plClr (pd : PReg) : Statement (.plClr pd) :=
  fun _ => fields_packWord _ _ (h4 := pd.isLt)

theorem plRdc (rd : EReg) (pd : PReg) (idx : Nat) : Statement (.plRdc rd pd idx) :=
  fun h => fields_packWord _ _ (h1 := rd.isLt) (h4 := pd.isLt) (h6 := of_decide_eq_true h)

theorem plWrc (pd : PReg) (idx : Nat) (ra : EReg) : Statement (.plWrc pd idx ra) :=
  fun h => fields_packWord _ _ (h2 := ra.isLt) (h4 := pd.isLt) (h6 := of_decide_eq_true h)

theorem plWrci (pd : PReg) (idx imm : Nat) : Statement (.plWrci pd idx imm) :=
  fun h => fields_packWord _ _ (h4 := pd.isLt) (h6 := of_decide_eq_true (Bool.and_eq_true_iff.mp h).1) (h7 := of_decide_eq_true (Bool.and_eq_true_iff.mp h).2)

theorem plRddeg (pd : PReg) : Statement (.plRddeg pd) :=
  fun _ => fields_packWord _ _ (h4 := pd.isLt)

theorem plWrdeg (pd : PReg) (imm : Nat) : Statement (.plWrdeg pd imm) :=
  fun h => fields_packWord _ _ (h4 := pd.isLt) (h7 := of_decide_eq_true h)

theorem plSetdeg (pd : PReg) : Statement (.plSetdeg pd) :=
  fun _ => fields_packWord _ _ (h4 := pd.isLt)

theorem plEval (rd : EReg) (pd : PReg) (ra : EReg) : Statement (.plEval rd pd ra) :=
  fun _ => fields_packWord _ _ (h1 := rd.isLt) (h2 := ra.isLt) (h4 := pd.isLt)

theorem plMulxa (pd : PReg) (ra : EReg) : Statement (.plMulxa pd ra) :=
  fun _ => fields_packWord _ _ (h2 := ra.isLt) (h4 := pd.isLt)

theorem plAdd (pd ps : PReg) : Statement (.plAdd pd ps) :=
  fun _ => fields_packWord _ _ (h4 := pd.isLt) (h5 := ps.isLt)

theorem rsEnc (pd : PReg) : Statement (.rsEnc pd) :=
  fun _ => fields_packWord _ _ (h4 := pd.isLt)

theorem rsVfy (pd : PReg) : Statement (.rsVfy pd) :=
  fun _ => fields_packWord _ _ (h4 := pd.isLt)

theorem rsCor (rd : EReg) (pd : PReg) (idx : Nat) : Statement (.rsCor rd pd idx) :=
  fun h => fields_packWord _ _ (h1 := rd.isLt) (h4 := pd.isLt) (h6 := of_decide_eq_true h)

theorem rsGen (rd : EReg) (idx : Nat) : Statement (.rsGen rd idx) :=
  fun h => fields_packWord _ _ (h1 := rd.isLt) (h6 := of_decide_eq_true h)

theorem bfSeek (imm : Nat) : Statement (.bfSeek imm) :=
  fun h => fields_packWord _ _ (h7 := of_decide_eq_true h)

theorem bfIns (pd : PReg) (idx imm : Nat) : Statement (.bfIns pd idx imm) :=
  fun h => fields_packWord _ _ (h4 := pd.isLt) (h6 := of_decide_eq_true (Bool.and_eq_true_iff.mp h).1) (h7 := of_decide_eq_true (Bool.and_eq_true_iff.mp h).2)

theorem bfExt (rd : EReg) (pd : PReg) (idx : Nat) : Statement (.bfExt rd pd idx) :=
  fun h => fields_packWord _ _ (h1 := rd.isLt) (h4 := pd.isLt) (h6 := of_decide_eq_true h)

end Laws.EncodedFields

end Sys2Proof
end

