-- ==== Sys2Proof/Laws/Polynomial.lean ====
section
/-! SUPPORT. What scan, the logical coefficient and the two whole-register operations answer. -/

namespace Sys2Proof.Machine

/-- The loop of scan answers the highest nonzero index below its bound, or -1. -/
theorem scanFrom_spec (w : Coefs) (n : Nat) :
    (scanFrom w n = -1 ∧ ∀ i, i < n → coefAt w i = 0) ∨
    (∃ d : Nat, scanFrom w n = d ∧ d < n ∧ coefAt w d ≠ 0 ∧ ∀ i, d < i → i < n → coefAt w i = 0) := by
  induction n with
  | zero => exact .inl ⟨rfl, by omega⟩
  | succ n ih =>
    by_cases h : coefAt w n = 0
    · have hs : scanFrom w (n + 1) = scanFrom w n := by simp [scanFrom, h]
      rw [hs]
      rcases ih with ⟨h1, h2⟩ | ⟨d, h1, h2, h3, h4⟩
      · refine .inl ⟨h1, fun i hi => ?_⟩
        rcases Nat.lt_succ_iff_lt_or_eq.mp hi with hi | rfl
        · exact h2 i hi
        · exact h
      · refine .inr ⟨d, h1, by omega, h3, fun i hd hi => ?_⟩
        rcases Nat.lt_succ_iff_lt_or_eq.mp hi with hi | rfl
        · exact h4 i hd hi
        · exact h
    · exact .inr ⟨n, if_pos h, by omega, h, by omega⟩

/-- The logical coefficient up to the degree is the physical one. -/
theorem logical_of_le (q : PolyReg) (i : Nat) (h : (i : Int) ≤ q.deg) : logical q i = coefAt q.c i := by
  simp [logical, h]

/-- The logical coefficient above the degree is zero. -/
theorem logical_of_gt (q : PolyReg) (i : Int) (h : q.deg < i) : logical q i = 0 := by
  have : ¬ (0 ≤ i ∧ i ≤ q.deg) := by omega
  simp [logical, this]

theorem coefAt_timesXMinus (q : PolyReg) (a : Elem) (i : Nat) (h : i < 14) :
    coefAt (timesXMinus q a) i = gfAdd (logical q ((i : Int) - 1)) (gfMul a (logical q i)) :=
  coefAt_coefsOf _ i h

theorem coefAt_sumCoefs (q r : PolyReg) (i : Nat) (h : i < 14) :
    coefAt (sumCoefs q r) i = gfAdd (logical q i) (logical r i) :=
  coefAt_coefsOf _ i h

@[simp] theorem PolyReg.scanned_c (w : Coefs) : (PolyReg.scanned w).c = w := rfl
@[simp] theorem PolyReg.scanned_deg (w : Coefs) : (PolyReg.scanned w).deg = scan w := rfl
@[simp] theorem PolyReg.empty_deg : PolyReg.empty.deg = -1 := rfl
@[simp] theorem PolyReg.coefAt_empty (i : Nat) : coefAt PolyReg.empty.c i = 0 := coefAt_replicate i

end Sys2Proof.Machine
end

