-- ==== Sys2Proof/Tests/Slice0.lean ====
section
/-! SUPPORT. Our own tests. Expected values come from spec/95_test_vectors.md and from the examples of the rules; each
test names its source. Then, for every statement with hypotheses, a witness that meets them. -/

-- One theorem after another: elaborated all at once, the kernel evaluations below ask for a thread each.
set_option Elab.async false

namespace Sys2Proof.Tests

open Sys2Proof.Machine Sys2Proof.Claims

/-! ### Well-formedness: each check refuses an ill-formed term (R61) -/

theorem test_ill_formed_idx :
    [Instr.sysRdcr 16, .plRdc 0 0 16, .plWrc 0 16 0, .plWrci 0 16 0, .rsCor 0 0 16, .rsGen 0 16, .bfIns 0 16 0,
      .bfExt 0 0 16].map WellFormed = List.replicate 8 false := by decide

theorem test_ill_formed_imm :
    [Instr.gfLdi 0 2048, .gfPow 0 0 2048, .plWrci 0 0 2048, .plWrdeg 0 2048, .bfSeek 2048, .bfIns 0 0 2048].map
      WellFormed = List.replicate 6 false := by decide

/-! ### Decoding: one word per row, written out from R63 and the rules' examples -/

theorem test_decode_sys :
    [0x00000000#32, 0x04000800#32, 0x08000000#32].map decode = [.ok .sysNop, .ok (.sysRdcr 1), .ok .sysRst] := by
  decide

theorem test_decode_gf :
    [0x20800123#32, 0x24300000#32, 0x28140000#32, 0x2E260000#32, 0x33E00000#32, 0x3480000B#32, 0x38080000#32].map decode =
      [.ok (.gfLdi 1 0x123), .ok (.gfMov 0 3), .ok (.gfAdd 0 1 2), .ok (.gfMul 4 2 3), .ok (.gfInv 7 6),
       .ok (.gfPow 1 0 11), .ok (.gfEq 0 4)] := by decide

theorem test_decode_pl :
    [0x40010000#32, 0x46010000#32, 0x48403800#32, 0x4C001600#32, 0x50010000#32, 0x5400001F#32, 0x58010000#32,
     0x5F610000#32, 0x60110000#32, 0x64008000#32].map decode =
      [.ok (.plClr 1), .ok (.plRdc 4 1 0), .ok (.plWrc 0 7 4), .ok (.plWrci 0 2 1536), .ok (.plRddeg 1),
       .ok (.plWrdeg 0 31), .ok (.plSetdeg 1), .ok (.plEval 6 1 6), .ok (.plMulxa 1 1), .ok (.plAdd 0 1)] := by decide

theorem test_decode_rs :
    [0x80010000#32, 0x84000000#32, 0x8A806800#32, 0x8D800800#32].map decode =
      [.ok (.rsEnc 1), .ok (.rsVfy 0), .ok (.rsCor 5 0 13), .ok (.rsGen 3 1)] := by decide

theorem test_decode_bf :
    [0xA000000B#32, 0xA4002816#32, 0xA9002800#32].map decode =
      [.ok (.bfSeek 11), .ok (.bfIns 0 5 22), .ok (.bfExt 2 0 5)] := by decide

/-- R161's examples, and V6's word with two things wrong. -/
theorem test_decode_illegal :
    [0xFC000000#32, 0x0C000000#32, 0x00000001#32, 0x20820005#32, 0x44107000#32].map decode =
      [.error (.unassignedOpcode 0x3F), .error (.unassignedOpcode 3), .error (.unusedFieldNonzero 0),
       .error (.unusedFieldNonzero 8), .error (.unusedFieldNonzero 0x11)] := by decide

theorem test_decodeTableWord : decodeTableWord 32 0x2E260000 = some (.gfMul 4 2 3) := by decide

/-- The record's widths are those of the types (R5). -/
theorem test_config_matches_types :
    Config.hw.m = 11 ∧ Config.hw.n = 14 ∧ Config.hw.ne = 8 ∧ Config.hw.np = 2 ∧
    Config.hw.nbits = Config.hw.n * Config.hw.m ∧ Config.hw.k + 1 = 2 := by decide

/-- CFG0, CFG1, CFG2 after reset (R28), and the constants G (R29). -/
theorem test_reset_constants :
    State.reset.cfg0 = 0x02EB ∧ State.reset.cfg1 = 0x0805 ∧ State.reset.cfg2 = 0x0002 ∧
    genPoly Config.hw = State.reset.g.toList := by decide +kernel

/-! ### Helpers -/

/-- The state after one step. -/
def after (s : State) : State :=
  match step s with
  | .next t => t
  | _ => s

/-- The state after the host presents one word. -/
def cmd (s : State) (w : Word) : State := after (s.present w)

/-- The last response. -/
def answer (s : State) : Word := s.responses.getLastD 0xFFFFFFFF

/-- A register with these low coefficients. -/
def polyOf (l : List Elem) (deg : Int) : PolyReg := { c := coefsOf (l.getD · 0), deg := deg }

/-- W1, the codeword of program P1 (95, section 3.2). -/
def w1 : PolyReg :=
  polyOf [0x3D7, 0x000, 0x600, 0x044, 0x446, 0x344, 0x2AB, 0x19D, 0x711, 0x19A, 0x55D, 0x733, 0x3BD, 0x6FF] 13

/-- Reset, with e2 = 0x555, e3 = 0x2AA, p0 = W1. -/
def base : State := ((State.reset.setElem 2 0x555).setElem 3 0x2AA).setPoly 0 w1

/-- A FAULTED block: INVZERO was raised. -/
def faulted : State := base.raise .invzero

/-! ### The field (95, section 2.1) -/

theorem test_gfMul : gfMul 1234 567 = 199 ∧ gfMul 1024 1024 = 517 ∧ gfMul 7 0x700 = 0x50A := by decide +kernel
theorem test_gfMulReduce : gfMulReduce 2047 2047 = 1362 := by decide +kernel
theorem test_gfPow : gfPow 1234 3 = 1658 ∧ gfPowFast 2 89 = 322 ∧ gfPowFast 2 2047 = 1 := by decide +kernel
theorem test_gfInv : gfInv 1234 = 1412 ∧ gfInv 0x555 = 0x396 := by decide +kernel

/-! ### The system commands (44; 95, sections 6 and 7) -/

theorem test_nop : answer (cmd base 0x00000000) = 0 := by decide +kernel
theorem test_rdcr_cfg0 : answer (cmd base 0x04001000) = 0x2EB := by decide +kernel
theorem test_rdcr_status_after_fault : answer (cmd faulted 0x04000000) = 0x130 := by decide +kernel
theorem test_rst_in_faulted : (cmd faulted 0x08000000).elem 2 = 0 ∧ (cmd faulted 0x08000000).Running := by decide +kernel
theorem test_refused : answer (cmd faulted 0x21000005) = 0x8F000000 ∧ (cmd faulted 0x21000005).elem 2 = 0x555 := by
  decide +kernel
theorem test_illegal : answer (cmd base 0x44107000) = 0x81000000 ∧ (cmd base 0x44107000).status = 0x0110 := by
  decide +kernel
theorem test_hard_reset : after { base with port := [.hardReset] } = State.reset := by decide +kernel
theorem test_cut_command : after { base with port := [.cutCommand 0x20800123] } = State.reset := by decide +kernel
theorem test_idle : after base = base := by decide +kernel

/-! ### The field commands (40; 95, section 2.2) -/

theorem test_ldi : answer (cmd base 0x20800123) = 0x123 ∧ (cmd base 0x20800123).elem 1 = 0x123 := by decide +kernel
theorem test_mov : (cmd base 0x24300000).elem 0 = 0x2AA := by decide +kernel
theorem test_add : (cmd base (encode (.gfAdd 0 2 3))).elem 0 = 0x7FF := by decide +kernel
theorem test_add_source_is_destination : (cmd base 0x29240000).elem 2 = 0 := by decide +kernel
theorem test_mul : (cmd base 0x2E260000).elem 4 = 0x777 := by decide +kernel
theorem test_inv : (cmd base (encode (.gfInv 4 2))).elem 4 = 0x396 := by decide +kernel
theorem test_inv_zero : answer (cmd base 0x30800000) = 0x83000000 ∧ (cmd base 0x30800000).status = 0x0130 := by
  decide +kernel
theorem test_pow : (cmd (base.setElem 0 2) 0x3480000B).elem 1 = 5 := by decide +kernel
theorem test_pow_zero_zero : (cmd base 0x34800000).elem 1 = 1 := by decide +kernel
theorem test_eq : answer (cmd base 0x38080000) = 1 ∧ (cmd base 0x38080000).status = 2 := by decide +kernel

/-! ### The polynomial commands (41; 95, section 3) -/

theorem test_clr : (cmd (base.setPoly 1 w1) 0x40010000).poly 1 = PolyReg.empty := by decide +kernel
theorem test_rdc : answer (cmd base 0x44000000) = 0x3D7 := by decide +kernel
theorem test_wrc : coefAt ((cmd (base.setElem 4 0x123) 0x48403800).poly 0).c 7 = 0x123 := by decide +kernel
theorem test_wrci_keeps_degree : ((cmd State.reset 0x4C001009).poly 0).deg = -1 := by decide +kernel
theorem test_rddeg : answer (cmd State.reset 0x50000000) = 0x1F := by decide +kernel
theorem test_wrdeg : ((cmd base 0x5400001F).poly 0).deg = -1 ∧ answer (cmd base 0x5400000E) = 0x82000000 := by
  decide +kernel
theorem test_setdeg : answer (cmd (base.setDeg 0 2) 0x58000000) = 0x0D := by decide +kernel
theorem test_eval : answer (cmd (base.setElem 0 2) 0x5C800000) = 0x7A5 := by decide +kernel
theorem test_eval_degree_two : answer (cmd ((base.setElem 0 2).setDeg 0 2) 0x5C800000) = 0x3D8 := by decide +kernel
theorem test_mulxa :
    (cmd ((base.setElem 3 0x400).setPoly 0 (polyOf [5, 7, 9, 0, 0, 0, 0, 0, 0, 0, 0, 0x111, 0x222, 0x333] 2))
      0x60300000).poly 0 = polyOf [0x40A, 0x40A, 0x413, 0x009] 3 := by decide +kernel
theorem test_mulxa_overflow : answer (cmd base 0x60300000) = 0x84000000 := by decide +kernel
theorem test_add_poly :
    (cmd ((base.setPoly 0 (polyOf [1, 2, 3, 0x700] 2)).setPoly 1
      (polyOf [1, 2, 4, 0, 5, 0, 0, 0, 0, 0, 0, 0, 0, 0x55] 4)) 0x64008000).poly 0 = polyOf [0, 0, 7, 0, 5] 4 := by
  decide +kernel
theorem test_add_poly_cancels :
    answer (cmd ((base.setPoly 0 (polyOf [1, 2, 3] 2)).setPoly 1 (polyOf [7, 2, 3] 2)) 0x64008000) = 0 := by
  decide +kernel

/-! ### The Reed-Solomon commands (42; 95, sections 4 and 8) -/

theorem test_enc : (cmd (base.setCoefs 0 (setCoefAt w1.c 0 0)) 0x80000000).poly 0 = w1 := by decide +kernel
theorem test_enc_precondition : answer (cmd base 0x80000000) = 0x85000000 := by decide +kernel
theorem test_vfy : answer (cmd base 0x84000000) = 1 ∧ (cmd base 0x84000000).status = 1 := by decide +kernel
theorem test_vfy_corrupt : answer (cmd (base.setCoefs 0 (setCoefAt w1.c 0 0x3D8)) 0x84000000) = 0 := by decide +kernel
theorem test_cor :
    answer (cmd (base.setPoly 0 (polyOf [3, 5, 7] 2)) 0x88001000) = 6 ∧
    (cmd (base.setPoly 0 (polyOf [3, 5, 7] 2)) 0x88001000).poly 0 = polyOf [3, 5, 6] 2 := by decide +kernel
theorem test_cor_top :
    (cmd (base.setPoly 0 (polyOf [3, 5, 6, 0, 0, 0, 0, 0, 0, 0, 0, 0, 0, 0x7FF] 2)) 0x8A806800).poly 0 =
      polyOf [3, 5, 6] 2 := by decide +kernel
theorem test_gen : answer (cmd base 0x8D800800) = 1 ∧ answer (cmd base 0x8C001000) = 0x82000000 := by decide +kernel

/-- Section 8: the rules at K = 2, which is not this hardware. -/
theorem test_k_two :
    genPoly { Config.hw with k := 2 } = [2, 3, 1] ∧ cfg0Value { Config.hw with k := 2 } = 0x04EB ∧
    (encodeWord { Config.hw with k := 2 } ([2, 3, 1].getD · 0)
      (coefsOf ([0, 0, 0x123, 0x456, 1, 0, 0, 0, 0, 0, 0, 0, 0, 0x7FF].getD · 0))) =
      coefsOf ([0x10A, 0x381, 0x123, 0x456, 1, 0, 0, 0, 0, 0, 0, 0, 0, 0x7FF].getD · 0) := by decide +kernel

/-! ### The bit-field commands (43; 95, section 5) -/

theorem test_seek : (cmd base 0xA000009A).bitpos = 154 ∧ answer (cmd base 0xA000009B) = 0x82000000 := by decide +kernel
theorem test_ins :
    (cmd (State.reset.setBitpos 8) 0xA4002816).poly 0 = polyOf [0x005, 0x400] (-1) ∧
    answer (cmd (State.reset.setBitpos 8) 0xA4002816) = 0x0D := by decide +kernel
theorem test_ins_replaces :
    ((cmd ((State.reset.setBitpos 20).setPoly 1 { c := Vector.replicate 14 0x7FF, deg := -1 }) 0xA4012000).poly 1).c =
      setCoefAt (setCoefAt (Vector.replicate 14 0x7FF) 1 0x7FC) 2 0x1FF := by decide +kernel
theorem test_ext :
    answer (cmd ((State.reset.setBitpos 8).setPoly 0 (polyOf [0x005, 0x400] (-1))) 0xA9002800) = 0x16 := by decide +kernel
theorem test_ext_range :
    answer (cmd (State.reset.setBitpos 150) 0xA8012800) = 0x86000000 ∧
    answer (cmd (State.reset.setBitpos 152) 0xA4001808) = 0x82000000 := by decide +kernel

/-! ### Witnesses: the hypotheses of each statement are met -/

theorem witness_nonzero_element : (1 : Elem) ≠ 0 ∧ (2047 : Elem) ≠ 0 := by decide
/-- SquareAndMultiplyIsTheNFoldProduct and GfPowResult: both ends of the exponent's range. -/
theorem witness_exponent : 1 ≤ 1 ∧ 0 < 2048 ∧ 2047 < 2048 ∧ (2 : Elem) ≠ 0 := by decide
theorem witness_DecodeUndoesEncode :
    WellFormed (.bfIns 1 15 2047) = true ∧ WellFormed (.bfIns 0 0 0) = true ∧ WellFormed .sysNop = true := by decide
theorem witness_EncodeUndoesDecode : decode 0xA401FFFF#32 = .error (.unusedFieldNonzero 0x29) ∧
    decode 0xA4017FFF#32 = .ok (.bfIns 1 15 2047) := by decide
theorem witness_DegreeCodeRoundTrip : DegreeLegal (-1) ∧ DegreeLegal 0 ∧ DegreeLegal 13 := by decide
theorem witness_StepRunsTheDecodedCommand :
    (base.present 0x2E260000).port = .command 0x2E260000 :: [] ∧ decode 0x2E260000 = .ok (.gfMul 4 2 3) ∧
    WellFormed (.gfMul 4 2 3) = true := by decide
theorem witness_IllegalWordRaisesIllegal :
    (base.present 0xFC000000).port = .command 0xFC000000 :: [] ∧ (base.present 0xFC000000).Running ∧
    ∀ row ∈ opcodeTable, ¬ Matches 0xFC000000 row := by
  refine ⟨rfl, by decide, ?_⟩
  unfold Matches
  decide
theorem witness_FaultedBlockRefuses :
    (faulted.present 0x08000000).port = .command 0x08000000 :: [] ∧ (faulted.present 0x08000000).Faulted ∧
    ReadsControl 0x04000000 ∧ ReadsControl 0x04002000 ∧
    (0x04002800 : Word) ≠ 0x08000000 ∧ ¬ ReadsControl 0x04002800 ∧ ¬ ReadsControl 0xFC000000 := by
  unfold ReadsControl
  decide
/-- CommandsFaultExactlyAsListed: a command that faults and one that does not, in the RUNNING state. -/
theorem witness_CommandsFaultExactlyAsListed :
    base.Running ∧ expectedFault (.plRdc 0 0 14) base = some 2 ∧ expectedFault (.plRdc 0 0 13) base = none ∧
    expectedFault (.gfInv 1 0) base = some 3 ∧ expectedFault (.plMulxa 0 3) base = some 4 ∧
    expectedFault (.rsEnc 0) base = some 5 ∧ expectedFault (.bfIns 0 3 7) (base.setBitpos 152) = some 6 := by decide
theorem witness_EveryCommandAnsweredOnce : (base.present 0).port = .command 0 :: [] := by decide
theorem witness_ResetReachesResetValues :
    { base with port := [.hardReset] }.port = .hardReset :: [] ∧
    { base with port := [.cutCommand 1] }.port = .cutCommand 1 :: [] := by decide
theorem witness_StepDependsOnBlockAndEventAlone :
    SameBlock { base with port := [.hardReset] } { base with port := [.hardReset, .command 0], responses := [7] } := by
  decide
theorem witness_StepKeepsInv : base.Inv ∧ faulted.Inv ∧ (base.present 0x20800123).Inv := by decide
theorem witness_StepKeepsInv_next : ∃ t, step (base.present 0x20800123) = .next t := ⟨_, rfl⟩
theorem witness_RunWentWellIffRunning :
    (base.present 0x30800000).WentWell ∧ (base.present 0x30800000).Running ∧
    ∀ ev ∈ (base.present 0x30800000).port, ev.resets = false :=
  ⟨(by intro r h; cases h), (by decide), (by intro ev h; cases h with | head => rfl | tail _ h => cases h)⟩
theorem witness_OnlyListedCommandsWriteState : ∃ t, exec (.gfLdi 1 5) base = .next t ∧ t.e ≠ base.e :=
  ⟨_, rfl, by decide⟩
theorem witness_StatusFieldsHaveTheirWriters :
    (∃ t, exec (.rsVfy 0) base = .next t ∧ t.Running) ∧ (Instr.rsVfy 0) ≠ .sysRst ∧ base.Running ∧ faulted.Faulted :=
  ⟨⟨_, rfl, by decide +kernel⟩, by decide, by decide, by decide⟩
/-- Its last clause: GF.INV of e0 = 0 takes the RUNNING block to FAULTED. -/
theorem witness_StatusFieldsHaveTheirWriters_fault :
    base.Running ∧ (Instr.gfInv 1 0) ≠ .sysRst ∧ ∃ t, exec (.gfInv 1 0) base = .next t ∧ t.Faulted :=
  ⟨by decide, by decide, _, rfl, by decide⟩
/-- StepKeepsWentWellIffRunning, on both sides of its equivalence. -/
theorem witness_StepKeepsWentWellIffRunning :
    ((base.present 0x30800000).WentWell ↔ (base.present 0x30800000).Running) ∧ (faulted.WentWell ↔ faulted.Running) ∧
    (∀ ev ∈ (base.present 0x30800000).port, ev.resets = false) ∧ (∀ ev ∈ faulted.port, ev.resets = false) ∧
    (∃ t, step (base.present 0x30800000) = .next t) ∧ ∃ t, step faulted = .next t :=
  ⟨⟨fun _ => by decide, fun _ r h => (by cases h)⟩,
   ⟨fun h => absurd (h (faultResponse 3) (by simp [faulted, base, State.raise, State.answer, FaultCode.code]))
      (by decide), fun h => absurd h (by decide)⟩,
   (by intro ev h; cases h with | head => rfl | tail _ h => cases h), (by intro ev h; cases h), ⟨_, rfl⟩, ⟨_, rfl⟩⟩
theorem witness_SysNopAndRdcrResults : base.Running ∧ faulted.Faulted ∧ 0 ≤ 4 ∧ 4 ≤ 4 ∧ 4 < 5 ∧ 4 < 15 := by decide
/-- Every statement whose one premise on the state is that it is RUNNING, with the operands at both ends. -/
theorem witness_running_and_operands :
    base.Running ∧ base.ConstantsHold ∧ 0 ≤ 13 ∧ 13 ≤ 13 ∧ 13 < 14 ∧ 13 < 15 ∧ 0 < 2048 ∧ 2047 < 2048 := by decide
theorem witness_GfInvResult : base.Running ∧ base.elem 2 ≠ 0 ∧ base.elem 0 = 0 := by decide
theorem witness_PlWrcAndWrciResults :
    base.Running ∧ (∃ ra, Instr.plWrc 0 13 2 = .plWrc 0 13 ra ∧ (0x555 : Elem) = base.elem ra) ∧
    (∃ imm, Instr.plWrci 0 0 2047 = .plWrci 0 0 imm ∧ imm < 2048 ∧ (2047 : Elem).toNat = imm) :=
  ⟨by decide, ⟨2, rfl, by decide⟩, ⟨2047, rfl, by decide, by decide⟩⟩
theorem witness_PlRddegAndWrdegResults :
    base.Running ∧ DegreeLegal (base.poly 0).deg ∧ DegreeLegal (base.poly 1).deg ∧ (13 ≤ 13 ∧ (13 : Int) = (13 : Nat)) ∧
    13 < 14 ∧ 14 ≠ 31 ∧ 13 < 30 ∧ 30 ≠ 31 ∧ 13 < 2047 ∧ 2047 ≠ 31 := by decide
theorem witness_PlEvalResult :
    base.Running ∧ DegreeLegal (base.poly 0).deg ∧ (base.poly 1).deg = -1 ∧ base.elem 0 = 0 ∧
    (base.setElem 1 1).elem 1 = 1 := by decide
theorem witness_PlMulxaResult :
    base.Running ∧ (base.poly 0).deg = 13 ∧ (base.poly 1).deg ≠ 13 ∧ (base.poly 1).deg = -1 := by decide
theorem witness_PlAddResult : base.Running ∧ (1 : PReg) ≠ 0 ∧ (1 : PReg) = 1 := by decide
theorem witness_NormalisationOfPlCommands :
    base.Running ∧ Normalised (base.poly 0) ∧ Normalised (State.reset.poly 0) ∧
    Normalised (polyOf [5, 7, 9] 2) ∧ (0 : Int) ≤ 2 ∧ (2 : Int) ≤ 12 ∧
    (∃ t, exec (.plClr 0) base = .next t ∧ t.Running) :=
  ⟨by decide, by decide, by decide, by decide, by decide, by decide, ⟨_, rfl, by decide⟩⟩
theorem witness_WordEvalAgreesWithHorner : w1.deg = 13 ∧ Normalised (polyOf [5, 7, 9] 2) := by decide
theorem witness_RsEncResult :
    base.Running ∧ base.ConstantsHold ∧ coefAt (base.poly 1).c 0 = 0 ∧ coefAt (base.poly 0).c 0 ≠ 0 := by decide
theorem witness_SingleSubstitutionIsDetected :
    base.Running ∧ Codeword (base.poly 0).c ∧ 0 < 14 ∧ 13 < 14 ∧ 984 < 2048 ∧
    (coefAt (base.poly 0).c 0).toNat ≠ 984 ∧ (coefAt (base.poly 0).c 13).toNat ≠ 984 := by decide +kernel
theorem witness_ErasureIsRestored :
    base.Running ∧ Codeword (base.poly 0).c ∧ 0 < 14 ∧ 13 < 14 ∧ 2047 < 2048 := by decide +kernel
theorem witness_BitsWriteIsTheChunkedWrite :
    1 ≤ 1 ∧ 11 ≤ 11 ∧ 143 + 11 ≤ 154 ∧ (2047 : Elem).toNat < 2 ^ 11 ∧ 11 = 11 - 143 % 11 ∧ 11 = min 11 11 ∧
    13 < 14 ∧ 10 < 11 ∧ (153 + 1 ≤ 154 ∧ (1 : Elem).toNat < 2 ^ 1) := by decide
theorem witness_BfSeekResult : base.Running ∧ 0 ≤ 154 ∧ 154 ≤ 154 ∧ 154 < 155 ∧ 154 < 2047 := by decide
theorem witness_BfInsResult :
    base.Running ∧ (0 = 0 ∨ 11 < 0) ∧ (12 = 0 ∨ 11 < 12) ∧ (1 ≤ 1 ∧ 2 ^ 1 ≤ 2) ∧ (11 ≤ 11 ∧ 2 ^ 11 ≤ 2048) ∧
    (3 ≤ 11 ∧ 7 < 2 ^ 3 ∧ 154 < (base.setBitpos 152).bitpos.toNat + 3) ∧
    (base.setBitpos 151).bitpos.toNat + 3 ≤ 154 ∧ (base.setBitpos 143).bitpos.toNat + 11 ≤ 154 := by decide
theorem witness_BfExtResult :
    base.Running ∧ 154 < (base.setBitpos 150).bitpos.toNat + 5 ∧ (base.setBitpos 150).bitpos.toNat + 4 ≤ 154 ∧
    154 < (base.setBitpos 154).bitpos.toNat + 1 := by decide
/-- InsertThenExtractReturnsValue: `u` is the state after the insertion with the cursor set back. -/
theorem witness_InsertThenExtractReturnsValue :
    ∃ t, exec (.bfIns 0 5 22) (base.setBitpos 8) = .next t ∧ (base.setBitpos 8).Running ∧ 1 ≤ 5 ∧ 5 ≤ 11 ∧
      22 < 2 ^ 5 ∧ (base.setBitpos 8).bitpos.toNat + 5 ≤ 154 ∧ (t.setBitpos 8).Running ∧
      (t.setBitpos 8).bitpos = (base.setBitpos 8).bitpos ∧
      ∀ pos, 8 ≤ pos → pos < 8 + 5 → bitAt ((t.setBitpos 8).poly 0).c pos = bitAt (t.poly 0).c pos :=
  ⟨_, rfl, by decide, by decide, by decide, by decide, by decide, by decide, by decide, fun _ _ _ => rfl⟩

end Sys2Proof.Tests
end

section
/-! The two ports are outside the block (R8, R20). The events still to come and the responses already given can be
changed before or after an operation of the block with the same effect; `PortBlind` names that property, every command
has it, and that a step depends on the block's state and its event alone (O18) follows. -/

namespace Sys2Proof.Machine

/-- The block `b` put before another host: `port` is what the host will present, and `told` what it was told before
`b`'s own responses. -/
def State.inHost (b : State) (port : List PortEvent) (told : List Word) : State :=
  { b with port := port, responses := told ++ b.responses }

section InHost
variable (b : State) (port : List PortEvent) (told : List Word)

/-! ### The host changes no read of the block -/

@[simp] theorem State.inHost_port : (b.inHost port told).port = port := rfl
@[simp] theorem State.inHost_responses : (b.inHost port told).responses = told ++ b.responses := rfl
@[simp] theorem State.inHost_status : (b.inHost port told).status = b.status := rfl
@[simp] theorem State.inHost_bitpos : (b.inHost port told).bitpos = b.bitpos := rfl
@[simp] theorem State.elem_inHost (r : EReg) : (b.inHost port told).elem r = b.elem r := rfl
@[simp] theorem State.poly_inHost (k : PReg) : (b.inHost port told).poly k = b.poly k := rfl
@[simp] theorem State.gen_inHost : (b.inHost port told).gen = b.gen := rfl
@[simp] theorem State.bitsInRange_inHost (len : Nat) :
    (b.inHost port told).bitsInRange len = b.bitsInRange len := rfl
@[simp] theorem State.control_inHost (n : Nat) : (b.inHost port told).control n = b.control n := by
  unfold State.control
  split <;> rfl

/-- One block before two hosts is the same block. -/
theorem State.sameBlock_inHost (port' : List PortEvent) (told' : List Word) :
    SameBlock (b.inHost port told) (b.inHost port' told') :=
  ⟨rfl, rfl, rfl, rfl, rfl, rfl, rfl, rfl⟩

/-! ### Every update of the block leaves the host as it is -/

@[simp] theorem State.setElem_inHost (r : EReg) (v : Elem) :
    (b.inHost port told).setElem r v = (b.setElem r v).inHost port told := rfl
@[simp] theorem State.setPoly_inHost (k : PReg) (q : PolyReg) :
    (b.inHost port told).setPoly k q = (b.setPoly k q).inHost port told := rfl
@[simp] theorem State.setCoefs_inHost (k : PReg) (w : Coefs) :
    (b.inHost port told).setCoefs k w = (b.setCoefs k w).inHost port told := rfl
@[simp] theorem State.setDeg_inHost (k : PReg) (d : Int) :
    (b.inHost port told).setDeg k d = (b.setDeg k d).inHost port told := rfl
@[simp] theorem State.setStatus_inHost (st : Half) :
    (b.inHost port told).setStatus st = (b.setStatus st).inHost port told := rfl
@[simp] theorem State.setBitpos_inHost (n : Nat) :
    (b.inHost port told).setBitpos n = (b.setBitpos n).inHost port told := rfl
@[simp] theorem State.resetBlock_inHost :
    (b.inHost port told).resetBlock = b.resetBlock.inHost port told := rfl

/-- A response is appended behind whatever the host was told before. -/
@[simp] theorem State.answer_inHost (r : Word) :
    (b.inHost port told).answer r = (b.answer r).inHost port told := by
  simp [State.inHost, State.answer]

@[simp] theorem State.respond_inHost (d : Half) :
    (b.inHost port told).respond d = (b.respond d).inHost port told := State.answer_inHost ..
@[simp] theorem State.respondElem_inHost (v : Elem) :
    (b.inHost port told).respondElem v = (b.respondElem v).inHost port told := State.answer_inHost ..
@[simp] theorem State.refuse_inHost :
    (b.inHost port told).refuse = b.refuse.inHost port told := State.answer_inHost ..
@[simp] theorem State.raise_inHost (f : FaultCode) :
    (b.inHost port told).raise f = (b.raise f).inHost port told := by
  simp [State.raise]
@[simp] theorem State.deliver_inHost (r : EReg) (v : Elem) :
    (b.inHost port told).deliver r v = (b.deliver r v).inHost port told := by
  simp [State.deliver]
@[simp] theorem State.deliverPoly_inHost (k : PReg) (q : PolyReg) :
    (b.inHost port told).deliverPoly k q = (b.deliverPoly k q).inHost port told := by
  simp [State.deliverPoly]

@[simp] theorem State.ite_inHost (c : Prop) [Decidable c] (t u : State) :
    (if c then t.inHost port told else u.inHost port told) = (if c then t else u).inHost port told :=
  (apply_ite (State.inHost · port told) c t u).symm

@[simp] theorem State.writeCoef_inHost (pd : PReg) (idx : Nat) (v : Elem) :
    (b.inHost port told).writeCoef pd idx v = (b.writeCoef pd idx v).inHost port told := by
  simp [State.writeCoef]
@[simp] theorem State.whenRunning_inHost (k : State) :
    (b.inHost port told).whenRunning (k.inHost port told) = (b.whenRunning k).inHost port told := by
  simp [State.whenRunning]

end InHost

/-! ### Operations that neither look at the host nor change it -/

/-- The operation does the same before every host. -/
def PortBlind (f : State → State) : Prop :=
  ∀ (b : State) (port : List PortEvent) (told : List Word), f (b.inHost port told) = (f b).inHost port told

/-- The FAULTED test reads STATUS only, so a command behind it is as blind as what it does in the RUNNING state. -/
theorem PortBlind.whenRunning {k : State → State} (hk : PortBlind k) :
    PortBlind fun s => s.whenRunning (k s) := by
  intro b port told
  simp only [hk b port told, State.whenRunning_inHost]

theorem portBlind_resetBlock : PortBlind State.resetBlock := State.resetBlock_inHost

theorem portBlind_rejectWord : PortBlind State.rejectWord :=
  PortBlind.whenRunning fun b port told => State.raise_inHost b port told .illegal

/-- Every command has a next state, and finds it without the host. -/
theorem exec_portBlind (i : Instr) : ∃ f, PortBlind f ∧ ∀ s, exec i s = .next (f s) := by
  cases i with
  | sysRdcr idx =>
    refine ⟨_, fun b port told => ?_, fun _ => rfl⟩
    simp
  | sysRst => exact ⟨_, fun b port told => State.respond_inHost b.resetBlock port told 0, fun _ => rfl⟩
  | gfEq ra rb =>
    refine ⟨_, .whenRunning fun b port told => ?_, fun _ => rfl⟩
    exact State.respond_inHost (b.setStatus _) port told _
  | plWrdeg pd imm =>
    refine ⟨_, .whenRunning fun b port told => ?_, fun _ => rfl⟩
    cases degreeOfImm imm <;> simp
  | plMulxa pd ra =>
    refine ⟨_, .whenRunning fun b port told => ?_, fun _ => rfl⟩
    by_cases h : (b.poly pd).deg = 13 <;> simp [h]
  | rsCor rd pd idx =>
    refine ⟨_, .whenRunning fun b port told => ?_, fun _ => rfl⟩
    cases h : correctErasure Config.hw (b.poly pd).c idx <;> simp [h]
  | _ =>
    refine ⟨_, .whenRunning fun b port told => ?_, fun _ => rfl⟩
    simp

/-- An event at the port is carried out by an operation that the event alone picks and that does not see the host. -/
theorem step_portBlind (ev : PortEvent) :
    ∃ f, PortBlind f ∧ ∀ s rest, s.port = ev :: rest → step s = .next (f { s with port := rest }) := by
  cases ev with
  | command w =>
    cases hd : decode w with
    | ok i =>
      obtain ⟨f, hf, hexec⟩ := exec_portBlind i
      exact ⟨f, hf, fun s rest hp => by simp [step, State.takeEvent, hp, hd, hexec]⟩
    | error d => exact ⟨_, portBlind_rejectWord, fun s rest hp => by simp [step, State.takeEvent, hp, hd]⟩
  | hardReset => exact ⟨_, portBlind_resetBlock, fun s rest hp => by simp [step, State.takeEvent, hp]⟩
  | cutCommand w => exact ⟨_, portBlind_resetBlock, fun s rest hp => by simp [step, State.takeEvent, hp]⟩

/-! ### The block without its host -/

/-- The block alone: nothing presented, nothing answered. -/
def State.block (s : State) : State := { s with port := [], responses := [] }

/-- A state is its block before its own host. -/
theorem State.block_inHost (s : State) (rest : List PortEvent) :
    s.block.inHost rest s.responses = { s with port := rest } := by
  simp [State.block, State.inHost]

/-- States with the same block differ in their hosts only. -/
theorem SameBlock.block_eq {s s' : State} (h : SameBlock s s') : s'.block = s.block := by
  obtain ⟨he, hp, hstatus, hbitpos, hcfg0, hcfg1, hcfg2, hg⟩ := h
  simp [State.block, he, hp, hstatus, hbitpos, hcfg0, hcfg1, hcfg2, hg]

end Sys2Proof.Machine

namespace Sys2Proof.Proofs

open Sys2Proof.Machine

/-- Settles O18: the event picks an operation of the block, which answers the same on the one block that both states
have; the two next states are that answer before the two hosts. -/
theorem stepDependsOnBlockAndEventAlone : Obligations.StepDependsOnBlockAndEventAlone := by
  unfold Obligations.StepDependsOnBlockAndEventAlone
  intro s s' ev rest rest' hblock hport hport'
  obtain ⟨f, hf, hstep⟩ := step_portBlind ev
  have next_eq (u : State) (todo : List PortEvent) (hu : u.port = ev :: todo) :
      step u = .next ((f u.block).inHost todo u.responses) := by
    rw [hstep u todo hu, ← State.block_inHost, hf]
  have hstep' := next_eq s' rest' hport'
  rw [hblock.block_eq] at hstep'
  exact ⟨_, _, (f s.block).responses, next_eq s rest hport, hstep', State.sameBlock_inHost .., rfl, rfl, rfl, rfl⟩

end Sys2Proof.Proofs
end

section
/-! The column "written by" of R20. `WritesOnlyListed` says it of one command and two states; each update of the state
keeps it when the command is listed for that piece, a fault keeps it when the command is to raise one, and every command
is a composition of such updates (O22). -/

namespace Sys2Proof.Machine

/-- A write of coefficients leaves every degree. -/
theorem State.deg_setCoefs (s : State) (k k' : PReg) (w : Coefs) :
    ((s.setCoefs k w).poly k').deg = (s.poly k').deg := by
  rw [State.setCoefs, State.poly_setPoly]
  split
  case isTrue h => rw [h]
  case isFalse => rfl

/-- A write of a degree leaves every coefficient. -/
theorem State.c_setDeg (s : State) (k k' : PReg) (d : Int) :
    ((s.setDeg k d).poly k').c = (s.poly k').c := by
  rw [State.setDeg, State.poly_setPoly]
  split
  case isTrue h => rw [h]
  case isFalse => rfl

end Sys2Proof.Machine

namespace Sys2Proof.Proofs

open Sys2Proof.Machine Sys2Proof.Claims

/-! ### The tests of the commands are those of `expectedFault` -/

section ExpectedFault
variable (s : State) (rd ra : EReg) (pd : PReg) (idx imm len : Nat)

/-! The operand ranges of R64 and R65 in numbers. -/

theorem coefIndexLegal_eq : coefIndexLegal idx = decide (idx < 14) := rfl
theorem genIndexLegal_eq : genIndexLegal idx = decide (idx ≤ 1) := rfl
theorem offsetLegal_eq : offsetLegal imm = decide (imm ≤ 154) := rfl
theorem bitsInRange_eq : s.bitsInRange len = decide (s.bitpos.toNat + len ≤ 154) := rfl
theorem degreeOfImm_eq :
    degreeOfImm imm = if imm < 14 then some (imm : Int) else if imm = 31 then some (-1) else none := rfl
theorem lengthLegal_eq : lengthLegal len = !decide (len = 0 ∨ 11 < len) := by
  have hrange : (1 ≤ len ∧ len ≤ 11) ↔ ¬ (len = 0 ∨ 11 < len) := by omega
  calc lengthLegal len = decide (1 ≤ len ∧ len ≤ 11) := (Bool.decide_and ..).symm
    _ = !decide (len = 0 ∨ 11 < len) := by simp only [hrange, decide_not]

/-- A fault with one test is expected where the test holds. -/
theorem isSome_ite_some (c : Prop) [Decidable c] (n : Nat) : (if c then some n else none).isSome = decide c := by
  split <;> simp_all

@[simp] theorem isSome_expectedFault_sysRdcr :
    (expectedFault (.sysRdcr idx) s).isSome = !controlIndexLegal idx := by
  simp [expectedFault, isSome_ite_some, controlIndexLegal, ← decide_not]

@[simp] theorem isSome_expectedFault_gfInv :
    (expectedFault (.gfInv rd ra) s).isSome = decide (s.elem ra = 0) := isSome_ite_some ..

/-- The one test of the commands that name a coefficient. -/
theorem isSome_ite_coefIndex : (if 13 < idx then some 2 else none).isSome = !coefIndexLegal idx := by
  simp [isSome_ite_some, coefIndexLegal_eq, ← decide_not, Nat.succ_le_iff]

@[simp] theorem isSome_expectedFault_plRdc :
    (expectedFault (.plRdc rd pd idx) s).isSome = !coefIndexLegal idx := isSome_ite_coefIndex idx

@[simp] theorem isSome_expectedFault_plWrc :
    (expectedFault (.plWrc pd idx ra) s).isSome = !coefIndexLegal idx := isSome_ite_coefIndex idx

@[simp] theorem isSome_expectedFault_plWrci :
    (expectedFault (.plWrci pd idx imm) s).isSome = !coefIndexLegal idx := isSome_ite_coefIndex idx

@[simp] theorem isSome_expectedFault_rsCor :
    (expectedFault (.rsCor rd pd idx) s).isSome = !coefIndexLegal idx := isSome_ite_coefIndex idx

@[simp] theorem isSome_expectedFault_plWrdeg :
    (expectedFault (.plWrdeg pd imm) s).isSome = (degreeOfImm imm).isNone := by
  rw [degreeOfImm_eq]
  by_cases hlow : imm < 14
  · simp [expectedFault, hlow, Nat.le_of_lt_succ hlow]
  · by_cases h31 : imm = 31 <;> simp [expectedFault, hlow, h31]; omega

@[simp] theorem isSome_expectedFault_plMulxa :
    (expectedFault (.plMulxa pd ra) s).isSome = decide ((s.poly pd).deg = (Config.hw.n : Int) - 1) :=
  isSome_ite_some ((s.poly pd).deg = 13) 4

@[simp] theorem isSome_expectedFault_rsEnc :
    (expectedFault (.rsEnc pd) s).isSome = checkOccupied Config.hw (s.poly pd).c := by
  rw [Bool.eq_iff_iff]; simp [expectedFault, checkOccupied]

@[simp] theorem isSome_expectedFault_rsGen :
    (expectedFault (.rsGen rd idx) s).isSome = !genIndexLegal idx := by
  simp [expectedFault, isSome_ite_some, genIndexLegal_eq, ← decide_not]

@[simp] theorem isSome_expectedFault_bfSeek :
    (expectedFault (.bfSeek imm) s).isSome = !offsetLegal imm := by
  simp [expectedFault, isSome_ite_some, offsetLegal_eq, ← decide_not]

@[simp] theorem isSome_expectedFault_bfIns :
    (expectedFault (.bfIns pd len imm) s).isSome = (!lengthLegal len || !valueFits imm len || !s.bitsInRange len) := by
  simp only [expectedFault, lengthLegal_eq, valueFits, bitsInRange_eq]
  by_cases hlen : len = 0 ∨ 11 < len
  · simp [hlen]
  · by_cases hval : 2 ^ len ≤ imm
    · simp [hlen, hval]
    · simp [hlen, hval, isSome_ite_some, ← decide_not]

@[simp] theorem isSome_expectedFault_bfExt :
    (expectedFault (.bfExt rd pd len) s).isSome = (!lengthLegal len || !s.bitsInRange len) := by
  simp only [expectedFault, lengthLegal_eq, bitsInRange_eq]
  by_cases hlen : len = 0 ∨ 11 < len
  · simp [hlen]
  · simp [hlen, isSome_ite_some, ← decide_not]

end ExpectedFault

/-! ### What it is to write only what is listed -/

/-- Each piece of state in which `t` differs from `s` lists `i` as its writer (R20); STATUS may also differ because `i`
raised its fault, and the constants do not differ. -/
structure WritesOnlyListed (i : Instr) (s t : State) : Prop where
  elems : t.e ≠ s.e → writesElems i = true
  coefs : ∀ k, (t.poly k).c ≠ (s.poly k).c → writesCoefs i = true
  degs : ∀ k, (t.poly k).deg ≠ (s.poly k).deg → writesDegs i = true
  status : t.status ≠ s.status → writesFlags i = true ∨ (s.Running ∧ t.Faulted ∧ (expectedFault i s).isSome = true)
  bitpos : t.bitpos ≠ s.bitpos → writesBitpos i = true
  constants : s.ConstantsHold → SameConstants s t

namespace WritesOnlyListed
variable {i : Instr} {s t k : State}

/-! ### One rule per update -/

theorem self : WritesOnlyListed i s s where
  elems hne := absurd rfl hne
  coefs _ hne := absurd rfl hne
  degs _ hne := absurd rfl hne
  status hne := absurd rfl hne
  bitpos hne := absurd rfl hne
  constants _ := ⟨rfl, rfl, rfl, rfl⟩

theorem setElem (h : WritesOnlyListed i s t) (hw : writesElems i = true) (r : EReg) (v : Elem) :
    WritesOnlyListed i s (t.setElem r v) :=
  { h with elems := fun _ => hw }

theorem setPoly (h : WritesOnlyListed i s t) (hc : writesCoefs i = true) (hd : writesDegs i = true)
    (pd : PReg) (q : PolyReg) : WritesOnlyListed i s (t.setPoly pd q) :=
  { h with coefs := fun _ _ => hc, degs := fun _ _ => hd }

theorem setCoefs (h : WritesOnlyListed i s t) (hw : writesCoefs i = true) (pd : PReg) (w : Coefs) :
    WritesOnlyListed i s (t.setCoefs pd w) :=
  { h with coefs := fun _ _ => hw, degs := fun k' hne => h.degs k' (t.deg_setCoefs pd k' w ▸ hne) }

theorem setDeg (h : WritesOnlyListed i s t) (hw : writesDegs i = true) (pd : PReg) (d : Int) :
    WritesOnlyListed i s (t.setDeg pd d) :=
  { h with coefs := fun k' hne => h.coefs k' (t.c_setDeg pd k' d ▸ hne), degs := fun _ _ => hw }

theorem setStatus (h : WritesOnlyListed i s t) (hw : writesFlags i = true) (st : Half) :
    WritesOnlyListed i s (t.setStatus st) :=
  { h with status := fun _ => .inl hw }

theorem setBitpos (h : WritesOnlyListed i s t) (hw : writesBitpos i = true) (n : Nat) :
    WritesOnlyListed i s (t.setBitpos n) :=
  { h with bitpos := fun _ => hw }

theorem answer (h : WritesOnlyListed i s t) (r : Word) : WritesOnlyListed i s (t.answer r) := { h with }

theorem respond (h : WritesOnlyListed i s t) (d : Half) : WritesOnlyListed i s (t.respond d) := h.answer _

theorem respondElem (h : WritesOnlyListed i s t) (v : Elem) : WritesOnlyListed i s (t.respondElem v) := h.answer _

theorem deliver (hw : writesElems i = true) (r : EReg) (v : Elem) : WritesOnlyListed i s (s.deliver r v) :=
  (self.setElem hw r v).respondElem v

theorem deliverPoly (hc : writesCoefs i = true) (hd : writesDegs i = true) (pd : PReg) (q : PolyReg) :
    WritesOnlyListed i s (s.deliverPoly pd q) :=
  (self.setPoly hc hd pd q).respond _

/-- Reset writes everything, and the constants with the values they hold. -/
theorem resetBlock : WritesOnlyListed .sysRst s s.resetBlock where
  elems _ := rfl
  coefs _ _ := rfl
  degs _ _ := rfl
  status _ := .inl rfl
  bitpos _ := rfl
  constants := fun ⟨h0, h1, h2, hg⟩ => ⟨h0.symm, h1.symm, h2.symm, hg.symm⟩

/-! ### Faults -/

theorem raise (hr : s.Running) (hf : (expectedFault i s).isSome = true) (f : FaultCode) :
    WritesOnlyListed i s (s.raise f) :=
  { self with status := fun _ => .inr ⟨hr, statusF_withFault s.status f, hf⟩ }

/-- Behind the FAULTED test, what the command does in the RUNNING state decides. -/
theorem whenRunning (h : s.Running → WritesOnlyListed i s k) : WritesOnlyListed i s (s.whenRunning k) := by
  obtain ⟨-, hrefuse⟩ | ⟨hr, hrun⟩ := s.whenRunning_cases k
  · rw [hrefuse]; exact self.answer _
  · rw [hrun]; exact h hr

/-- A test that raises a fault, when it holds only where the command is expected to fault. -/
theorem raise_ite {c : Prop} [Decidable c] {f : FaultCode} (hr : s.Running)
    (hf : c → (expectedFault i s).isSome = true) (h : WritesOnlyListed i s k) :
    WritesOnlyListed i s (if c then s.raise f else k) := by
  split
  case isTrue hc => exact raise hr (hf hc) f
  case isFalse => exact h

/-- The same with the branches the other way round. -/
theorem ite_raise {c : Prop} [Decidable c] {f : FaultCode} (hr : s.Running)
    (hf : ¬ c → (expectedFault i s).isSome = true) (h : WritesOnlyListed i s k) :
    WritesOnlyListed i s (if c then k else s.raise f) := by
  split
  case isTrue => exact h
  case isFalse hc => exact raise hr (hf hc) f

theorem writeCoef (hr : s.Running) (hw : writesCoefs i = true) (pd : PReg) {idx : Nat} (v : Elem)
    (hf : 14 ≤ idx → (expectedFault i s).isSome = true) : WritesOnlyListed i s (s.writeCoef pd idx v) := by
  obtain ⟨-, hwrite⟩ | ⟨hidx, hraise⟩ := s.writeCoef_cases pd idx v
  · rw [hwrite]; exact (self.setCoefs hw pd _).respondElem v
  · rw [hraise]; exact raise hr (hf hidx) _

end WritesOnlyListed

/-! ### Every command -/

/-- Every command has a next state and has written in it only the pieces of state that list the command. -/
theorem exec_writesOnlyListed (i : Instr) (s : State) : ∃ t, exec i s = .next t ∧ WritesOnlyListed i s t := by
  open WritesOnlyListed in
  cases i with
  | sysNop | plRddeg => exact ⟨_, rfl, whenRunning fun _ => self.respond _⟩
  | sysRdcr idx =>
    refine ⟨_, rfl, ?_⟩
    split
    · exact self.respond _
    · next hidx => exact whenRunning fun hr => raise hr (by simp [hidx]) _
  | sysRst => exact ⟨_, rfl, resetBlock.respond 0⟩
  | gfLdi | gfMov | gfAdd | gfMul | gfPow | plEval => exact ⟨_, rfl, whenRunning fun _ => deliver rfl _ _⟩
  | gfInv =>
    exact ⟨_, rfl, whenRunning fun hr => raise_ite hr (fun hzero => by simp [hzero]) (deliver rfl _ _)⟩
  | gfEq | rsVfy => exact ⟨_, rfl, whenRunning fun _ => (self.setStatus rfl _).respond _⟩
  | plClr => exact ⟨_, rfl, whenRunning fun _ => (self.setPoly rfl rfl _ _).respond _⟩
  | plRdc | rsGen =>
    exact ⟨_, rfl, whenRunning fun hr => ite_raise hr (fun hidx => by simp [hidx]) (deliver rfl _ _)⟩
  | plWrc | plWrci =>
    exact ⟨_, rfl, whenRunning fun hr => writeCoef hr rfl _ _ fun hidx => by simpa [coefIndexLegal_eq] using hidx⟩
  | plWrdeg pd imm =>
    refine ⟨_, rfl, whenRunning fun hr => ?_⟩
    split
    · exact (self.setDeg rfl _ _).respond _
    · next hnone => exact raise hr (by simp [hnone]) _
  | plSetdeg pd =>
    -- The coefficients are written back as they are, so this is a write of the degree.
    exact ⟨_, rfl, whenRunning fun _ => (self.setDeg rfl pd _).respond _⟩
  | plMulxa =>
    exact ⟨_, rfl, whenRunning fun hr => raise_ite hr (fun hdeg => by simp [hdeg]) (deliverPoly rfl rfl _ _)⟩
  | plAdd => exact ⟨_, rfl, whenRunning fun _ => deliverPoly rfl rfl _ _⟩
  | rsEnc =>
    exact ⟨_, rfl, whenRunning fun hr => raise_ite hr (fun hocc => by simp [hocc])
      ((self.setPoly rfl rfl _ _).respondElem _)⟩
  | rsCor =>
    refine ⟨_, rfl, whenRunning fun hr => ite_raise hr (fun hidx => by simp [hidx]) ?_⟩
    split
    · exact (((self.setPoly rfl rfl _ _).setElem rfl _ _).setStatus rfl _).respondElem _
    · exact (self.setStatus rfl _).respond _
  | bfSeek =>
    exact ⟨_, rfl, whenRunning fun hr => ite_raise hr (fun himm => by simp [himm])
      ((self.setBitpos rfl _).respond _)⟩
  | bfIns pd =>
    refine ⟨_, rfl, whenRunning fun hr => ?_⟩
    refine raise_ite hr (fun hlen => by simp [hlen]) ?_
    refine raise_ite hr (fun hval => by simp [hval]) ?_
    refine raise_ite hr (fun hrange => by simp [hrange]) ?_
    exact ((self.setCoefs rfl pd _).setBitpos rfl _).respond _
  | bfExt rd =>
    refine ⟨_, rfl, whenRunning fun hr => ?_⟩
    refine raise_ite hr (fun hlen => by simp [hlen]) ?_
    refine raise_ite hr (fun hrange => by simp [hrange]) ?_
    exact ((self.setElem rfl rd _).setBitpos rfl _).respondElem _

/-- Settles O22: the one state that `exec` answers is the one of `exec_writesOnlyListed`. -/
theorem onlyListedCommandsWriteState : Obligations.OnlyListedCommandsWriteState := by
  unfold Obligations.OnlyListedCommandsWriteState
  intro i s t hexec
  obtain ⟨t', hexec', hlisted⟩ := exec_writesOnlyListed i s
  obtain rfl : t' = t := Host.Outcome.next.inj (hexec'.symm.trans hexec)
  exact ⟨hlisted.elems, fun ⟨k, hne⟩ => hlisted.coefs k hne, fun ⟨k, hne⟩ => hlisted.degs k hne, hlisted.status,
    hlisted.bitpos, hlisted.constants⟩

end Sys2Proof.Proofs
end

section
/-! The bit space of R42. `coefOfBit` and `bitOfBit` together are a bijection of the offsets 0..153 to the bits of the
fourteen coefficients, because `offsetOfBit` is their inverse; where the ends of a written value stand follows from
`bitAt_bitsWrite` (O49). -/

namespace Sys2Proof.Machine

/-- The offset of bit `b` of coefficient `q`: the coefficients in order, each from its bit 10 down. -/
def offsetOfBit (q b : Nat) : Nat := 11 * q + (10 - b)

theorem coefOfBit_offsetOfBit (q b : Nat) : coefOfBit (offsetOfBit q b) = q := by
  unfold coefOfBit offsetOfBit
  omega

theorem bitOfBit_offsetOfBit (q : Nat) {b : Nat} (hb : b ≤ 10) : bitOfBit (offsetOfBit q b) = b := by
  unfold bitOfBit offsetOfBit
  omega

theorem offsetOfBit_coefOfBit_bitOfBit (pos : Nat) : offsetOfBit (coefOfBit pos) (bitOfBit pos) = pos := by
  unfold offsetOfBit coefOfBit bitOfBit
  omega

theorem offsetOfBit_lt {q : Nat} (hq : q < 14) (b : Nat) : offsetOfBit q b < 154 := by
  unfold offsetOfBit
  omega

theorem coefOfBit_lt {pos : Nat} (h : pos < 154) : coefOfBit pos < 14 := by
  unfold coefOfBit
  omega

theorem bitOfBit_le (pos : Nat) : bitOfBit pos ≤ 10 := Nat.sub_le 10 (pos % 11)

section Ends
variable (w : Coefs) (v : Elem) {pos n : Nat} (hn : 1 ≤ n) (h : pos + n ≤ 154)
include hn h

/-- A value of `n` bits has its most significant bit at the offset it is written to. -/
theorem bitAt_bitsWrite_first : bitAt (bitsWrite w pos n v) pos = v.getLsbD (n - 1) := by
  rw [bitAt_bitsWrite w pos n v h, if_pos (by omega), Nat.sub_self, Nat.sub_zero]

/-- A value of `n` bits has its least significant bit at the last offset it takes. -/
theorem bitAt_bitsWrite_last : bitAt (bitsWrite w pos n v) (pos + n - 1) = v.getLsbD 0 := by
  have index : n - 1 - (pos + n - 1 - pos) = 0 := by omega
  rw [bitAt_bitsWrite w pos n v h, if_pos (by omega), index]

end Ends

end Sys2Proof.Machine

namespace Sys2Proof.Proofs

open Sys2Proof.Machine

/-- Settles O49: the one offset of bit `b` of coefficient `q` is `offsetOfBit q b`, and the ends of a written value are
those of `bitAt_bitsWrite_first` and `bitAt_bitsWrite_last`; the formulas and the four offsets are the definitions. -/
theorem bitSpaceCoversEachBitOnce : Obligations.BitSpaceCoversEachBitOnce := by
  unfold Obligations.BitSpaceCoversEachBitOnce
  refine ⟨fun _ _ => ⟨rfl, rfl⟩, fun _ _ _ => rfl, fun pos hpos => ⟨coefOfBit_lt hpos, bitOfBit_le pos⟩, ?bijection,
    rfl, rfl, rfl, rfl, rfl, rfl, rfl, rfl, ?ends⟩
  case bijection =>
    intro q b hq hb
    refine ⟨offsetOfBit q b, offsetOfBit_lt hq b, coefOfBit_offsetOfBit q b, bitOfBit_offsetOfBit q hb, ?_⟩
    rintro pos' - rfl rfl
    exact (offsetOfBit_coefOfBit_bitOfBit pos').symm
  case ends =>
    intro w pos n v hn _ hend
    exact ⟨bitAt_bitsWrite_first w v hn hend, bitAt_bitsWrite_last w v hn hend⟩

end Sys2Proof.Proofs
end

section
/-! The match and mask of R62 and R63. The table is the list of the commands and the fields each uses (`commandFields`),
with the match and mask that R62 makes of a row; a word passes such a row's test iff it has the row's opcode and zeros
in the unused fields, which is what the decoder asks (O9). -/

namespace Sys2Proof

/-! ### A row's test on the bits of a word is a test on its fields -/

/-- The number `v` put into a word from bit `lo` up, every other bit zero. -/
def placeAt (lo v : Nat) : Word := BitVec.ofNat 32 (v * 2 ^ lo)

theorem getLsbD_placeAt (lo v k : Nat) :
    (placeAt lo v).getLsbD k = (decide (k < 32) && (decide (lo ≤ k) && v.testBit (k - lo))) := by
  rw [placeAt, BitVec.getLsbD_ofNat, Nat.testBit_mul_two_pow]

theorem testBit_wordBits (w : Word) (lo width j : Nat) :
    (wordBits w lo width).testBit j = (decide (j < width) && w.getLsbD (j + lo)) := by
  rw [wordBits, Nat.testBit_mod_two_pow, Nat.testBit_div_two_pow, BitVec.testBit_toNat]

/-- Under the mask of `width` bits from `lo` up, a word keeps the number that stands there. -/
theorem and_placeAt (w : Word) (lo width : Nat) :
    w &&& placeAt lo (2 ^ width - 1) = placeAt lo (wordBits w lo width) := by
  apply BitVec.eq_of_getLsbD_eq
  intro k hk
  rw [BitVec.getLsbD_and, getLsbD_placeAt, getLsbD_placeAt, Nat.testBit_two_pow_sub_one, testBit_wordBits]
  by_cases hlo : lo ≤ k
  · rw [Nat.sub_add_cancel hlo, Bool.and_comm (w.getLsbD k)]
    simp only [Bool.and_assoc]
  · simp [hlo]

theorem placeAt_inj {lo v v' : Nat} (hv : v * 2 ^ lo < 2 ^ 32) (hv' : v' * 2 ^ lo < 2 ^ 32) :
    placeAt lo v = placeAt lo v' ↔ v = v' := by
  rw [placeAt, placeAt, ← BitVec.toNat_inj, BitVec.toNat_ofNat, BitVec.toNat_ofNat, Nat.mod_eq_of_lt hv,
    Nat.mod_eq_of_lt hv', Nat.mul_left_inj (Nat.two_pow_pos lo).ne']

/-- The mask of OPC (R63). -/
def opcodeMask : Word := placeAt 26 (2 ^ 6 - 1)

/-- The mask of a single field (R63). -/
def Field.mask (f : Field) : Word := placeAt f.place.1 (2 ^ f.place.2 - 1)

theorem and_opcodeMask_eq_iff (w : Word) {opc : Nat} (h : opc < 64) :
    w &&& opcodeMask = packWord opc {} ↔ opcodeOf w = opc := by
  have hw : opcodeOf w < 64 := Nat.mod_lt _ (by decide)
  have hpack : packWord opc {} = placeAt 26 opc := by simp [packWord, placeAt]
  rw [opcodeMask, and_placeAt, hpack]
  exact placeAt_inj (lo := 26) (v := opcodeOf w) (by omega) (by omega)

theorem and_fieldMask_eq_zero_iff (w : Word) (f : Field) : w &&& f.mask = 0 ↔ fieldOf w f = 0 := by
  have hfit : fieldOf w f * 2 ^ f.place.1 < 2 ^ 32 := by
    have hlt : fieldOf w f < 2 ^ f.place.2 := Nat.mod_lt _ (Nat.two_pow_pos _)
    cases f <;> simp only [Field.place] at hlt ⊢ <;> omega
  have hzero : (0 : Word) = placeAt f.place.1 0 := by simp [placeAt]
  rw [Field.mask, and_placeAt, hzero]
  exact placeAt_inj hfit (by simp)

/-- The word of an opcode alone has every field zero. -/
theorem fieldOf_packWord_default {opc : Nat} (h : opc < 64) (f : Field) : fieldOf (packWord opc {}) f = 0 := by
  obtain ⟨-, hrd, hra, hrb, hpd, hps, hidx, himm⟩ := fields_packWord opc {} h
  cases f <;> assumption

/-- A part of the mask where the match is zero is a test for zero of its own. -/
theorem and_or_eq_iff {n : Nat} (w a b m : BitVec n) (hm : m &&& b = 0) :
    w &&& (b ||| a) = m ↔ w &&& b = 0 ∧ w &&& a = m := by
  rw [BitVec.and_or_distrib_left]
  constructor
  · intro h
    have hb : w &&& b = 0 := by
      calc w &&& b = ((w &&& b) ||| (w &&& a)) &&& b := by ext k hk; grind
        _ = 0 := by rw [h, hm]
    exact ⟨hb, by simpa [hb] using h⟩
  · rintro ⟨hb, rfl⟩
    simp [hb]

/-- The mask with a 1 at every bit of OPC and of the fields listed. -/
def maskWith (unused : List Field) : Word := unused.foldr (fun f mask => f.mask ||| mask) opcodeMask

theorem and_maskWith_eq_iff (w : Word) {opc : Nat} (h : opc < 64) (unused : List Field) :
    w &&& maskWith unused = packWord opc {} ↔ (∀ f ∈ unused, fieldOf w f = 0) ∧ opcodeOf w = opc := by
  induction unused with
  | nil => simpa [maskWith] using and_opcodeMask_eq_iff w h
  | cons f fs ih =>
    have hmatch : packWord opc {} &&& f.mask = 0 :=
      (and_fieldMask_eq_zero_iff _ f).mpr (fieldOf_packWord_default h f)
    calc w &&& maskWith (f :: fs) = packWord opc {}
        ↔ w &&& f.mask = 0 ∧ w &&& maskWith fs = packWord opc {} := and_or_eq_iff _ _ _ _ hmatch
      _ ↔ (∀ g ∈ f :: fs, fieldOf w g = 0) ∧ opcodeOf w = opc := by
        rw [ih, and_fieldMask_eq_zero_iff, List.forall_mem_cons, and_assoc]

/-! ### The rows of R63 -/

/-- R63's columns OPC and "fields used". -/
def commandFields : List (Nat × List Field) :=
  [(0x00, []), (0x01, [.idx]), (0x02, []),
   (0x08, [.rd, .imm]), (0x09, [.rd, .ra]), (0x0A, [.rd, .ra, .rb]), (0x0B, [.rd, .ra, .rb]), (0x0C, [.rd, .ra]),
   (0x0D, [.rd, .ra, .imm]), (0x0E, [.ra, .rb]),
   (0x10, [.pd]), (0x11, [.rd, .pd, .idx]), (0x12, [.pd, .idx, .ra]), (0x13, [.pd, .idx, .imm]), (0x14, [.pd]),
   (0x15, [.pd, .imm]), (0x16, [.pd]), (0x17, [.rd, .pd, .ra]), (0x18, [.pd, .ra]), (0x19, [.pd, .ps]),
   (0x20, [.pd]), (0x21, [.pd]), (0x22, [.rd, .pd, .idx]), (0x23, [.rd, .idx]),
   (0x28, [.imm]), (0x29, [.pd, .idx, .imm]), (0x2A, [.rd, .pd, .idx])]

/-- The fields outside `used`. -/
def unusedFields (used : List Field) : List Field := Field.all.filter (! used.contains ·)

/-- R62's match and mask for a command: the opcode alone, and the bits of OPC and of the unused fields. -/
def matchAndMask (row : Nat × List Field) : Nat × Word × Word :=
  (row.1, packWord row.1 {}, maskWith (unusedFields row.2))

theorem unusedZero_iff (w : Word) (used : List Field) :
    unusedZero w used = true ↔ ∀ f ∈ unusedFields used, fieldOf w f = 0 := by
  simp [unusedZero, unusedFields, or_iff_not_imp_left]

theorem opcode_lt_of_mem_commandFields : ∀ row ∈ commandFields, row.1 < 64 := by decide

/-- The rows' opcodes are distinct (R68). -/
theorem commandFields_opcodes_nodup : (commandFields.map Prod.fst).Nodup := by decide

theorem commandFields_eq_of_opcode_eq {row row' : Nat × List Field} (hrow : row ∈ commandFields)
    (hrow' : row' ∈ commandFields) (h : row.1 = row'.1) : row = row' :=
  List.inj_on_of_nodup_map commandFields_opcodes_nodup hrow hrow' h

/-! ### What the decoder answers -/

theorem decodeRow_eq_ok_iff (w : Word) (used : List Field) (i j : Instr) :
    decodeRow w used i = .ok j ↔ unusedZero w used = true ∧ i = j := by
  unfold decodeRow
  split <;> simp [*]

/-- Every word has the opcode of one row, and is decoded by it, or the opcode of none. -/
theorem decode_cases (w : Word) :
    (∃ row ∈ commandFields, opcodeOf w = row.1 ∧ ∃ i : Instr, i.opcode = row.1 ∧ decode w = decodeRow w row.2 i) ∨
    ((∀ row ∈ commandFields, opcodeOf w ≠ row.1) ∧ decode w = .error (.unassignedOpcode (opcodeOf w))) := by
  unfold decode
  split
  case h_28 => -- The last arm: the opcode of no row.
    refine .inr ⟨?_, rfl⟩
    simp only [commandFields, List.forall_mem_cons, List.not_mem_nil, false_implies, implies_true, and_true]
    and_intros <;> assumption
  all_goals
    next hopc => exact .inl ⟨(_, _), by decide, hopc, _, rfl, rfl⟩

/-- A word with a row's opcode is decoded by that row. -/
theorem decode_eq_decodeRow {w : Word} {row : Nat × List Field} (hrow : row ∈ commandFields)
    (hopc : opcodeOf w = row.1) : ∃ i : Instr, i.opcode = row.1 ∧ decode w = decodeRow w row.2 i := by
  obtain ⟨row', hrow', hopc', hdec⟩ | ⟨hnone, -⟩ := decode_cases w
  · obtain rfl := commandFields_eq_of_opcode_eq hrow hrow' (hopc.symm.trans hopc')
    exact hdec
  · exact absurd hopc (hnone row hrow)

/-- A word that decodes has its command's opcode, and zeros in the fields which that row does not use. -/
theorem row_of_decode_eq_ok {w : Word} {i : Instr} (h : decode w = .ok i) :
    ∃ row ∈ commandFields, opcodeOf w = row.1 ∧ i.opcode = row.1 ∧ unusedZero w row.2 = true := by
  obtain ⟨row, hrow, hopc, j, hj, hdec⟩ | ⟨-, herr⟩ := decode_cases w
  · obtain ⟨hzero, rfl⟩ := (decodeRow_eq_ok_iff ..).mp (hdec.symm.trans h)
    exact ⟨row, hrow, hopc, hj, hzero⟩
  · cases herr.symm.trans h

end Sys2Proof

namespace Sys2Proof.Proofs

open Sys2Proof.Claims

/-- The table is R62's match and mask of every command. -/
theorem opcodeTable_eq : opcodeTable = commandFields.map matchAndMask := by decide

/-- A word passes a row's test iff it is a word of that row with zeros in the unused fields. -/
theorem matches_matchAndMask_iff (w : Word) {row : Nat × List Field} (hrow : row ∈ commandFields) :
    Matches w (matchAndMask row) ↔ unusedZero w row.2 = true ∧ opcodeOf w = row.1 := by
  rw [unusedZero_iff]
  exact and_maskWith_eq_iff w (opcode_lt_of_mem_commandFields row hrow) _

/-- The rows that a word passes have its opcode, so there is at most one (R68). -/
theorem matches_unique {w : Word} {row row' : Nat × List Field} (hrow : row ∈ commandFields)
    (hrow' : row' ∈ commandFields) (h : Matches w (matchAndMask row)) (h' : Matches w (matchAndMask row')) :
    row = row' := by
  obtain ⟨-, hopc⟩ := (matches_matchAndMask_iff w hrow).mp h
  obtain ⟨-, hopc'⟩ := (matches_matchAndMask_iff w hrow').mp h'
  exact commandFields_eq_of_opcode_eq hrow hrow' (hopc.symm.trans hopc')

/-- A word decodes to a row's command iff it passes the row's test. -/
theorem matches_iff_decode (w : Word) {row : Nat × List Field} (hrow : row ∈ commandFields) :
    Matches w (matchAndMask row) ↔ ∃ i, decode w = .ok i ∧ i.opcode = row.1 := by
  rw [matches_matchAndMask_iff w hrow]
  constructor
  · rintro ⟨hzero, hopc⟩
    obtain ⟨i, hi, hdec⟩ := decode_eq_decodeRow hrow hopc
    exact ⟨i, hdec.trans ((decodeRow_eq_ok_iff ..).mpr ⟨hzero, rfl⟩), hi⟩
  · rintro ⟨i, hdec, hi⟩
    obtain ⟨row', hrow', hopc', hi', hzero⟩ := row_of_decode_eq_ok hdec
    obtain rfl := commandFields_eq_of_opcode_eq hrow hrow' (hi.symm.trans hi')
    exact ⟨hzero, hopc'⟩

/-- A word is rejected iff it passes no row's test. -/
theorem decode_eq_error_iff (w : Word) :
    (∃ d, decode w = .error d) ↔ ∀ row ∈ commandFields, ¬ Matches w (matchAndMask row) := by
  constructor
  · rintro ⟨d, hd⟩ row hrow hm
    obtain ⟨i, hok, -⟩ := (matches_iff_decode w hrow).mp hm
    cases hd.symm.trans hok
  · intro hnone
    cases hdec : decode w with
    | error d => exact ⟨d, rfl⟩
    | ok i =>
      obtain ⟨row, hrow, -, hi, -⟩ := row_of_decode_eq_ok hdec
      exact absurd ((matches_iff_decode w hrow).mpr ⟨i, hdec, hi⟩) (hnone row hrow)

/-- Settles O9: each row of the table is the match and mask of a row of `commandFields`. -/
theorem decodeFollowsMatchAndMask : Obligations.DecodeFollowsMatchAndMask := by
  unfold Obligations.DecodeFollowsMatchAndMask
  intro w
  rw [opcodeTable_eq]
  simp only [List.forall_mem_map]
  exact ⟨fun _ hrow => matches_iff_decode w hrow, decode_eq_error_iff w,
    fun _ hrow _ hrow' h h' => congrArg matchAndMask (matches_unique hrow hrow' h h')⟩

end Sys2Proof.Proofs
end

section
/-! R67's degree code: the low five bits of DATA are the degree in two's complement and the bits above them are zero, so
the code of -1 is 31 and every other legal degree is its own code (O11). -/

namespace Sys2Proof.Machine

theorem degreeData_toNat (d : Int) : (degreeData d).toNat = (d % 32).toNat := by
  have hlt : (d % 32).toNat < 2 ^ 16 := by omega
  simpa [degreeData] using Nat.mod_eq_of_lt hlt

/-- The low five bits of the code, read as a signed integer, are the degree: the code is a sign extension away. -/
theorem toInt_setWidth_degreeData {d : Int} (hd : DegreeLegal d) : (BitVec.setWidth 5 (degreeData d)).toInt = d := by
  rw [degreeData, BitVec.setWidth_setWidth_of_le _ (by decide), BitVec.setWidth_eq, BitVec.toInt_ofInt]
  exact Int.bmod_eq_of_le (by omega) (by omega)

end Sys2Proof.Machine

namespace Sys2Proof.Proofs

open Sys2Proof.Machine Sys2Proof.Claims

theorem degreeData_eq_degreeCode {d : Int} (hd : DegreeLegal d) : degreeData d = degreeCode d := by
  apply BitVec.eq_of_toNat_eq
  rw [degreeData_toNat, degreeCode]
  split
  case isTrue hneg => rw [hneg]; rfl
  case isFalse hneg => rw [BitVec.toNat_ofNat]; omega

theorem degreeOfImm_degreeData {d : Int} (hd : DegreeLegal d) : degreeOfImm (degreeData d).toNat = some d := by
  rw [degreeData_toNat, degreeOfImm_eq]
  by_cases hneg : d = -1
  · rw [hneg]; rfl
  · have hlow : (d % 32).toNat < 14 := by omega
    rw [if_pos hlow]
    congr 1
    omega

/-- Settles O11: as a number the code is the degree modulo 32, and as a signed 5-bit number it is the degree. -/
theorem degreeCodeRoundTrip : Obligations.DegreeCodeRoundTrip := by
  unfold Obligations.DegreeCodeRoundTrip
  intro d hd
  exact ⟨degreeData_eq_degreeCode hd, degreeOfImm_degreeData hd, (toInt_setWidth_degreeData hd).symm⟩

end Sys2Proof.Proofs
end

section
/-! The arithmetic of R82 to R86. Products are fixed by four facts: `gfMul` respects xor in each argument, commutes with
`xtime` in each argument, and has 1 as its unit. Every element is made from 1 by xor and `xtime` (`elem_induction`), so
the laws of R86 follow by that induction, and the second definition of R83 agrees with the first because both respect
xor and agree on the powers of x below 11. -/

namespace Sys2Proof.Machine

/-! ### Functions that respect xor -/

/-- `f` takes the xor of two values to the xor of their images. -/
def XorLinear {m n : Nat} (f : BitVec m → BitVec n) : Prop := ∀ a b, f (a ^^^ b) = f a ^^^ f b

theorem XorLinear.map_zero {m n : Nat} {f : BitVec m → BitVec n} (hf : XorLinear f) : f 0 = 0 := by
  calc f 0 = f (0 ^^^ 0) := by rw [BitVec.xor_self]; rfl
    _ = f 0 ^^^ f 0 := hf 0 0
    _ = 0 := BitVec.xor_self

theorem XorLinear.comp {l m n : Nat} {g : BitVec m → BitVec n} {f : BitVec l → BitVec m} (hg : XorLinear g)
    (hf : XorLinear f) : XorLinear fun a => g (f a) := by
  intro a b
  simp only [hf a b, hg (f a) (f b)]

/-- A conditional xor of the same value, when the conditions are xored too. -/
theorem ite_xor_same {n : Nat} (c d : Bool) (p q v : BitVec n) :
    (if c ^^ d then (p ^^^ q) ^^^ v else p ^^^ q) = (if c then p ^^^ v else p) ^^^ (if d then q ^^^ v else q) := by
  have hcancel : (p ^^^ v) ^^^ (q ^^^ v) = p ^^^ q := by
    calc (p ^^^ v) ^^^ (q ^^^ v) = p ^^^ q ^^^ (v ^^^ v) := by ac_rfl
      _ = p ^^^ q := by simp
  cases c <;> cases d <;> simp [hcancel] <;> ac_rfl

/-- A conditional xor under one condition. -/
theorem ite_xor_ite {n : Nat} (c : Bool) (p q v w : BitVec n) :
    (if c then (p ^^^ q) ^^^ (v ^^^ w) else p ^^^ q) = (if c then p ^^^ v else p) ^^^ (if c then q ^^^ w else q) := by
  cases c
  · rfl
  · simp only [if_true]; ac_rfl

/-! ### Multiplication by x -/

/-- R82 on 11 bits: the bit shifted out is replaced by x^2 + 1, numeric 5. -/
theorem xtime_eq (a : Elem) : xtime a = if a.getLsbD 10 then (a <<< 1) ^^^ 5#11 else a <<< 1 := by
  have htop : (a.setWidth 12 <<< 1).getLsbD 11 = a.getLsbD 10 := by simp
  have hlow : (a.setWidth 12 <<< 1).setWidth 11 = a <<< 1 := by
    ext i hi
    simp
  have hpoly : polyBits.setWidth 11 = 5#11 := by decide
  rw [xtime, htop, apply_ite (BitVec.setWidth 11), BitVec.setWidth_xor, hlow, hpoly]

theorem xorLinear_xtime : XorLinear xtime := by
  intro a b
  simp only [xtime_eq, BitVec.getLsbD_xor, BitVec.shiftLeft_xor_distrib]
  exact ite_xor_same ..

/-! ### Induction over the elements -/

/-- Every element is a xor of powers of x, those at its set bits: the induction takes away the highest set bit. -/
theorem elem_induction_bits {P : Elem → Prop} (zero : P 0) (bit : ∀ i : Fin 11, P (BitVec.twoPow 11 i))
    (xor : ∀ a b, P a → P b → P (a ^^^ b)) (a : Elem) : P a := by
  have below (n : Nat) (hn : n ≤ 11) : ∀ a : Elem, (∀ i, n ≤ i → a.getLsbD i = false) → P a := by
    induction n with
    | zero =>
      intro a ha
      have hzero : a = 0 := BitVec.eq_of_getLsbD_eq fun i _ => by simp [ha i]
      exact hzero ▸ zero
    | succ n ih =>
      intro a ha
      have cleared (b : Elem) (hbit : b.getLsbD n = false) (habove : ∀ i, n < i → b.getLsbD i = false) : P b := by
        refine ih (by omega) b fun i hi => ?_
        obtain rfl | hlt := Nat.eq_or_lt_of_le hi
        · exact hbit
        · exact habove i hlt
      cases htop : a.getLsbD n with
      | false => exact cleared a htop ha
      | true =>
        have hrest : P (a ^^^ BitVec.twoPow 11 n) := by
          refine cleared _ (by simpa [htop] using hn) fun i hi => ?_
          simp [ha i hi, hi.ne]
        have hsplit : a = (a ^^^ BitVec.twoPow 11 n) ^^^ BitVec.twoPow 11 n := by simp
        rw [hsplit]
        exact xor _ _ hrest (bit ⟨n, hn⟩)
  exact below 11 le_rfl a fun i hi => BitVec.getLsbD_of_ge a i hi

theorem iterate_xtime_one (i : Fin 11) : xtime^[i] 1 = BitVec.twoPow 11 i := by decide +revert

/-- Every element is made from 1 by xor and multiplication by x. -/
theorem elem_induction {P : Elem → Prop} (one : P 1) (xor : ∀ a b, P a → P b → P (a ^^^ b))
    (xtime : ∀ a, P a → P (xtime a)) (a : Elem) : P a := by
  have power (n : Nat) : P (Machine.xtime^[n] 1) := by
    induction n with
    | zero => exact one
    | succ n ih => rw [Function.iterate_succ_apply']; exact xtime _ ih
  exact elem_induction_bits (xor 1 1 one one) (fun i => iterate_xtime_one i ▸ power i) xor a

/-- Two functions that respect xor are equal when they agree on the powers of x. -/
theorem XorLinear.ext {n : Nat} {f g : Elem → BitVec n} (hf : XorLinear f) (hg : XorLinear g)
    (h : ∀ i : Fin 11, f (BitVec.twoPow 11 i) = g (BitVec.twoPow 11 i)) (a : Elem) : f a = g a := by
  induction a using elem_induction_bits with
  | zero => rw [hf.map_zero, hg.map_zero]
  | bit i => exact h i
  | xor a b iha ihb => rw [hf, hg, iha, ihb]

/-! ### The product respects xor and commutes with multiplication by x -/

theorem gfMulFrom_xor_left (a a' b : Elem) (n : Nat) (acc acc' : Elem) :
    gfMulFrom (a ^^^ a') b n (acc ^^^ acc') = gfMulFrom a b n acc ^^^ gfMulFrom a' b n acc' := by
  induction n generalizing acc acc' with
  | zero => rfl
  | succ n ih => rw [gfMulFrom, xorLinear_xtime, ite_xor_ite, ih, gfMulFrom, gfMulFrom]

theorem gfMulFrom_xor_right (a b b' : Elem) (n : Nat) (acc acc' : Elem) :
    gfMulFrom a (b ^^^ b') n (acc ^^^ acc') = gfMulFrom a b n acc ^^^ gfMulFrom a b' n acc' := by
  induction n generalizing acc acc' with
  | zero => rfl
  | succ n ih => rw [gfMulFrom, xorLinear_xtime, BitVec.getLsbD_xor, ite_xor_same, ih, gfMulFrom, gfMulFrom]

theorem gfMulFrom_xtime_left (a b : Elem) (n : Nat) (acc : Elem) :
    gfMulFrom (xtime a) b n (xtime acc) = xtime (gfMulFrom a b n acc) := by
  induction n generalizing acc with
  | zero => rfl
  | succ n ih => rw [gfMulFrom, ← xorLinear_xtime, ← apply_ite xtime, ih, gfMulFrom]

theorem xor_gfMul (a a' b : Elem) : gfMul (a ^^^ a') b = gfMul a b ^^^ gfMul a' b :=
  gfMulFrom_xor_left a a' b 11 0 0

theorem gfMul_xor (a b b' : Elem) : gfMul a (b ^^^ b') = gfMul a b ^^^ gfMul a b' :=
  gfMulFrom_xor_right a b b' 11 0 0

theorem xorLinear_gfMul_left (b : Elem) : XorLinear fun a => gfMul a b := fun a a' => xor_gfMul a a' b

theorem xorLinear_gfMul_right (a : Elem) : XorLinear (gfMul a) := gfMul_xor a

theorem xtime_gfMul (a b : Elem) : gfMul (xtime a) b = xtime (gfMul a b) := gfMulFrom_xtime_left a b 11 0

theorem zero_gfMul (a : Elem) : gfMul 0 a = 0 := (xorLinear_gfMul_left a).map_zero

theorem gfMul_zero (a : Elem) : gfMul a 0 = 0 := (xorLinear_gfMul_right a).map_zero

theorem one_gfMul (a : Elem) : gfMul 1 a = a := by
  have hid : XorLinear (id : Elem → Elem) := fun _ _ => rfl
  exact (xorLinear_gfMul_right 1).ext hid (by decide +kernel) a

theorem gfMul_xtime (a b : Elem) : gfMul a (xtime b) = xtime (gfMul a b) := by
  induction a using elem_induction with
  | one => rw [one_gfMul, one_gfMul]
  | xor a a' ih ih' => rw [xor_gfMul, ih, ih', ← xorLinear_xtime, xor_gfMul]
  | xtime a ih => rw [xtime_gfMul, ih, xtime_gfMul]

/-! ### The laws of R86 -/

theorem gfMul_one (a : Elem) : gfMul a 1 = a := by
  induction a using elem_induction with
  | one => exact one_gfMul 1
  | xor a a' ih ih' => rw [xor_gfMul, ih, ih']
  | xtime a ih => rw [xtime_gfMul, ih]

theorem gfMul_comm (a b : Elem) : gfMul a b = gfMul b a := by
  induction b using elem_induction with
  | one => rw [gfMul_one, one_gfMul]
  | xor b b' ih ih' => rw [gfMul_xor, ih, ih', xor_gfMul]
  | xtime b ih => rw [gfMul_xtime, ih, xtime_gfMul]

theorem gfMul_assoc (a b c : Elem) : gfMul (gfMul a b) c = gfMul a (gfMul b c) := by
  induction c using elem_induction with
  | one => rw [gfMul_one, gfMul_one]
  | xor c c' ih ih' => rw [gfMul_xor, ih, ih', gfMul_xor, gfMul_xor]
  | xtime c ih => rw [gfMul_xtime, ih, gfMul_xtime, gfMul_xtime]

/-- Multiplication by x is the product with the element 2. -/
theorem gfMul_two (a : Elem) : gfMul a 2 = xtime a := by
  have htwo : (2 : Elem) = xtime 1 := by decide
  rw [htwo, gfMul_xtime, gfMul_one]

/-! ### Multiply, then reduce -/

theorem clmulUpTo_xor_left (a a' b : Elem) (n : Nat) :
    clmulUpTo (a ^^^ a') b n = clmulUpTo a b n ^^^ clmulUpTo a' b n := by
  induction n with
  | zero => exact BitVec.xor_self.symm
  | succ n ih =>
    rw [clmulUpTo, ih, BitVec.setWidth_xor, BitVec.shiftLeft_xor_distrib, ite_xor_ite, clmulUpTo, clmulUpTo]

theorem clmulUpTo_xor_right (a b b' : Elem) (n : Nat) :
    clmulUpTo a (b ^^^ b') n = clmulUpTo a b n ^^^ clmulUpTo a b' n := by
  induction n with
  | zero => exact BitVec.xor_self.symm
  | succ n ih => rw [clmulUpTo, ih, BitVec.getLsbD_xor, ite_xor_same, clmulUpTo, clmulUpTo]

theorem xorLinear_reduceFrom (n : Nat) : XorLinear (reduceFrom n) := by
  induction n with
  | zero => exact fun _ _ => rfl
  | succ n ih => intro p q; rw [reduceFrom, BitVec.getLsbD_xor, ite_xor_same, ih, reduceFrom, reduceFrom]

/-- The part of `gfMulReduce` behind the carry-less product. -/
theorem xorLinear_reduce : XorLinear fun prod => (reduceFrom 10 prod).setWidth 11 :=
  XorLinear.comp (fun _ _ => BitVec.setWidth_xor) (xorLinear_reduceFrom 10)

theorem xorLinear_gfMulReduce_left (b : Elem) : XorLinear fun a => gfMulReduce a b :=
  xorLinear_reduce.comp fun a a' => clmulUpTo_xor_left a a' b 11

theorem xorLinear_gfMulReduce_right (a : Elem) : XorLinear (gfMulReduce a) :=
  xorLinear_reduce.comp fun b b' => clmulUpTo_xor_right a b b' 11

/-- The two definitions of R83 on the powers of x below 11. -/
theorem gfMul_twoPow_eq_gfMulReduce (i j : Fin 11) :
    gfMul (BitVec.twoPow 11 i) (BitVec.twoPow 11 j) = gfMulReduce (BitVec.twoPow 11 i) (BitVec.twoPow 11 j) := by
  decide +kernel +revert

theorem gfMul_eq_gfMulReduce (a b : Elem) : gfMul a b = gfMulReduce a b := by
  refine (xorLinear_gfMul_left b).ext (xorLinear_gfMulReduce_left b) (fun i => ?_) a
  refine (xorLinear_gfMul_right _).ext (xorLinear_gfMulReduce_right _) (fun j => ?_) b
  exact gfMul_twoPow_eq_gfMulReduce i j

/-! ### Powers -/

/-- The elements under the product: powers in this monoid are `gfPow` (R84). -/
@[reducible] def gfMonoid : CommMonoid Elem where
  mul := gfMul
  one := 1
  mul_assoc := gfMul_assoc
  one_mul := one_gfMul
  mul_one := gfMul_one
  mul_comm := gfMul_comm
  npow n a := gfPow a n
  npow_zero _ := rfl
  npow_succ n a := gfMul_comm a (gfPow a n)

theorem gfPow_add (a : Elem) (m n : Nat) : gfPow a (m + n) = gfMul (gfPow a m) (gfPow a n) :=
  @pow_add Elem gfMonoid.toMonoid a m n

theorem gfPow_mul (a : Elem) (m n : Nat) : gfPow a (m * n) = gfPow (gfPow a m) n :=
  @pow_mul Elem gfMonoid.toMonoid a m n

theorem one_gfPow (n : Nat) : gfPow 1 n = 1 := @one_pow Elem gfMonoid.toMonoid n

theorem zero_gfPow {n : Nat} (hn : 1 ≤ n) : gfPow 0 n = 0 := by
  obtain ⟨k, rfl⟩ := Nat.exists_eq_add_of_le' hn
  exact zero_gfMul _

/-- A power from the one of half the exponent: its square, times the base when the exponent is odd. -/
theorem gfPow_eq_square (a : Elem) (m : Nat) :
    gfPow a m = if m.testBit 0 then gfMul (gfMul (gfPow a (m / 2)) (gfPow a (m / 2))) a
      else gfMul (gfPow a (m / 2)) (gfPow a (m / 2)) := by
  have hsquare : gfMul (gfPow a (m / 2)) (gfPow a (m / 2)) = gfPow a (m / 2 + m / 2) := (gfPow_add ..).symm
  rw [hsquare]
  split
  case isTrue hodd =>
    have hm : m = m / 2 + m / 2 + 1 := by rw [Nat.testBit_zero, decide_eq_true_eq] at hodd; omega
    calc gfPow a m = gfMul a (gfPow a (m / 2 + m / 2)) := congrArg (gfPow a) hm
      _ = gfMul (gfPow a (m / 2 + m / 2)) a := gfMul_comm ..
  case isFalse heven =>
    have hm : m = m / 2 + m / 2 := by rw [Nat.testBit_zero, decide_eq_true_eq] at heven; omega
    exact congrArg (gfPow a) hm

/-- From the power that the exponent's bits from `k` up give, the loop over the bits below `k` reaches the whole power.
-/
theorem gfPowFrom_eq (a : Elem) (n k : Nat) : gfPowFrom a n k (gfPow a (n / 2 ^ k)) = gfPow a n := by
  induction k with
  | zero => rw [gfPowFrom, pow_zero, Nat.div_one]
  | succ k ih =>
    have hbit : n.testBit k = (n / 2 ^ k).testBit 0 := by rw [Nat.testBit_div_two_pow, Nat.zero_add]
    rw [gfPowFrom, hbit, pow_succ, ← Nat.div_div_eq_div_mul, ← gfPow_eq_square, ih]

/-- Square and multiply computes the n-fold product, for an exponent of 11 bits (R84). -/
theorem gfPowFast_eq_gfPow (a : Elem) {n : Nat} (hn : n < 2048) : gfPowFast a n = gfPow a n := by
  have hhigh : n / 2 ^ 11 = 0 := Nat.div_eq_of_lt hn
  have hloop := gfPowFrom_eq a n 11
  rwa [hhigh] at hloop

theorem gfInv_eq_gfPow (a : Elem) : gfInv a = gfPow a 2046 := gfPowFast_eq_gfPow a (by decide)

end Sys2Proof.Machine
end

section
/-! The multiplicative group (R85, R87). The order of ALPHA is 2047 because 2047 = 23 * 89 and neither of these powers
is 1; so the powers 0..2046 are distinct, and by counting they are all the nonzero elements. Inverses, the absence of zero
divisors and the sums over the cycle follow. -/

namespace Sys2Proof.Machine

open Sys2Proof.Claims

/-! ### The powers of ALPHA -/

theorem alpha_eq : alpha = 2 := rfl

theorem gfMul_alpha (a : Elem) : gfMul alpha a = xtime a := by rw [gfMul_comm, alpha_eq, gfMul_two]

theorem gfPow_alpha (n : Nat) : gfPow alpha n = xtime^[n] 1 := by
  induction n with
  | zero => rfl
  | succ n ih => rw [gfPow, gfMul_alpha, ih, Function.iterate_succ_apply']

theorem gfPow_alpha_2047 : gfPow alpha 2047 = 1 := by
  rw [← gfPowFast_eq_gfPow alpha (by decide)]
  decide +kernel

/-- ALPHA generates: its order is the number of nonzero elements (R87). -/
theorem orderOf_alpha : @orderOf Elem gfMonoid.toMonoid alpha = 2047 := by
  refine @orderOf_eq_of_pow_and_pow_div_prime Elem gfMonoid.toMonoid alpha 2047 (by decide) gfPow_alpha_2047 ?_
  intro p hp hdvd
  have hfactor : p = 23 ∨ p = 89 := by
    rw [show 2047 = 23 * 89 by rfl, hp.dvd_mul, Nat.prime_dvd_prime_iff_eq hp (by decide),
      Nat.prime_dvd_prime_iff_eq hp (by norm_num)] at hdvd
    exact hdvd
  obtain rfl | rfl := hfactor
  · have h89 : gfPowFast alpha 89 ≠ 1 := by decide +kernel
    rwa [gfPowFast_eq_gfPow alpha (by decide)] at h89
  · have h23 : gfPowFast alpha 23 ≠ 1 := by decide +kernel
    rwa [gfPowFast_eq_gfPow alpha (by decide)] at h23

theorem gfPow_alpha_injOn : Set.InjOn (gfPow alpha) (Set.Iio 2047) := by
  have hinj := @pow_injOn_Iio_orderOf Elem gfMonoid.toMonoid alpha
  rwa [orderOf_alpha] at hinj

theorem toNat_gfPow_alpha_injOn :
    Set.InjOn (fun n => (gfPow alpha n).toNat) (Finset.range 2047 : Set Nat) := by
  rw [Finset.coe_range]
  exact fun m hm n hn h => gfPow_alpha_injOn hm hn (BitVec.eq_of_toNat_eq h)

/-- No power is 0, because its 2047th power is 1. -/
theorem gfPow_alpha_ne_zero (n : Nat) : gfPow alpha n ≠ 0 := by
  intro hzero
  have hone : gfPow alpha (n * 2047) = 1 := by rw [Nat.mul_comm, gfPow_mul, gfPow_alpha_2047, one_gfPow]
  rw [gfPow_mul, hzero, zero_gfPow (by decide)] at hone
  exact absurd hone (by decide)

/-- As numbers, the powers 0 to 2046 of ALPHA are 1 to 2047: there are as many of the one as of the other. -/
theorem image_gfPow_alpha : (Finset.range 2047).image (fun n => (gfPow alpha n).toNat) = Finset.Ico 1 2048 := by
  apply Finset.eq_of_subset_of_card_le
  · intro v hv
    obtain ⟨n, -, rfl⟩ := Finset.mem_image.mp hv
    have hne : (gfPow alpha n).toNat ≠ 0 := fun h => gfPow_alpha_ne_zero n (BitVec.eq_of_toNat_eq h)
    exact Finset.mem_Ico.mpr ⟨Nat.pos_of_ne_zero hne, (gfPow alpha n).isLt⟩
  · rw [Finset.card_image_of_injOn toNat_gfPow_alpha_injOn, Finset.card_range, Nat.card_Ico]

/-- Every nonzero element is one of those powers. -/
theorem exists_gfPow_alpha_eq {a : Elem} (ha : a ≠ 0) : ∃ n, n < 2047 ∧ gfPow alpha n = a := by
  have hpos : a.toNat ≠ 0 := fun h => ha (BitVec.eq_of_toNat_eq h)
  have hmem : a.toNat ∈ Finset.Ico 1 2048 := Finset.mem_Ico.mpr ⟨Nat.pos_of_ne_zero hpos, a.isLt⟩
  rw [← image_gfPow_alpha] at hmem
  obtain ⟨n, hn, heq⟩ := Finset.mem_image.mp hmem
  exact ⟨n, Finset.mem_range.mp hn, BitVec.eq_of_toNat_eq heq⟩

/-! ### Inverses -/

theorem gfPow_2047 {a : Elem} (ha : a ≠ 0) : gfPow a 2047 = 1 := by
  obtain ⟨n, -, rfl⟩ := exists_gfPow_alpha_eq ha
  rw [← gfPow_mul, Nat.mul_comm, gfPow_mul, gfPow_alpha_2047, one_gfPow]

theorem gfMul_gfInv {a : Elem} (ha : a ≠ 0) : gfMul a (gfInv a) = 1 := by
  rw [gfInv_eq_gfPow]
  exact gfPow_2047 ha

theorem eq_gfInv_of_gfMul_eq_one {a b : Elem} (h : gfMul a b = 1) : b = gfInv a := by
  have ha : a ≠ 0 := by
    rintro rfl
    rw [zero_gfMul] at h
    exact absurd h (by decide)
  exact @left_inv_eq_right_inv Elem gfMonoid.toMonoid a b (gfInv a) ((gfMul_comm b a).trans h) (gfMul_gfInv ha)

theorem gfInv_ne_zero {a : Elem} (ha : a ≠ 0) : gfInv a ≠ 0 := by
  intro hzero
  have hone := gfMul_gfInv ha
  rw [hzero, gfMul_zero] at hone
  exact absurd hone (by decide)

theorem gfInv_gfInv {a : Elem} (ha : a ≠ 0) : gfInv (gfInv a) = a := by
  have hone : gfMul (gfInv a) a = 1 := by rw [gfMul_comm, gfMul_gfInv ha]
  exact (eq_gfInv_of_gfMul_eq_one hone).symm

/-- There are no zero divisors. -/
theorem eq_zero_or_eq_zero_of_gfMul_eq_zero {a b : Elem} (h : gfMul a b = 0) : a = 0 ∨ b = 0 := by
  by_cases ha : a = 0
  · exact .inl ha
  · right
    calc b = gfMul (gfMul a (gfInv a)) b := by rw [gfMul_gfInv ha, one_gfMul]
      _ = gfMul (gfInv a) (gfMul a b) := by rw [gfMul_comm a, gfMul_assoc]
      _ = 0 := by rw [h, gfMul_zero]

/-! ### Sums over the cycle -/

/-- The geometric sum: times x, it gains the next power and loses the first. -/
theorem xtime_gfSum_gfPow_alpha (n : Nat) :
    xtime (gfSum (gfPow alpha) n) = gfSum (gfPow alpha) n ^^^ (gfPow alpha n ^^^ 1) := by
  induction n with
  | zero => rfl
  | succ n ih =>
    have hnext : gfPow alpha (n + 1) = xtime (gfPow alpha n) := gfMul_alpha _
    rw [gfSum, gfAdd, xorLinear_xtime, ih, hnext]
    ac_rfl

theorem gfSum_gfPow_alpha_2047 : gfSum (gfPow alpha) 2047 = 0 := by
  have hfix := xtime_gfSum_gfPow_alpha 2047
  rw [gfPow_alpha_2047, BitVec.xor_self, BitVec.xor_zero] at hfix
  have hprod : gfMul (gfSum (gfPow alpha) 2047) (2 ^^^ 1) = 0 := by
    rw [gfMul_xor, gfMul_two, hfix, gfMul_one]
    exact BitVec.xor_self
  exact (eq_zero_or_eq_zero_of_gfMul_eq_zero hprod).resolve_right (by decide)

theorem foldl_range_add_eq_sum (f : Nat → Nat) (n : Nat) :
    (List.range n).foldl (fun sum k => sum + f k) 0 = ∑ k ∈ Finset.range n, f k := by
  induction n with
  | zero => rfl
  | succ n ih => rw [List.range_succ, List.foldl_append, ih, Finset.sum_range_succ]; rfl

theorem foldl_toNat_gfPow_alpha :
    (List.range 2047).foldl (fun sum n => sum + (gfPow alpha n).toNat) 0 = 2096128 := by
  calc (List.range 2047).foldl (fun sum n => sum + (gfPow alpha n).toNat) 0
      = ∑ n ∈ Finset.range 2047, (gfPow alpha n).toNat := foldl_range_add_eq_sum ..
    _ = ∑ v ∈ Finset.Ico 1 2048, v := by rw [← image_gfPow_alpha, Finset.sum_image toNat_gfPow_alpha_injOn]
    _ = ∑ v ∈ Finset.range 2048, v := by rw [Finset.sum_range_eq_add_Ico _ (by decide), Nat.zero_add]
    _ = 2096128 := Finset.sum_range_id 2048

end Sys2Proof.Machine

namespace Sys2Proof.Proofs

open Sys2Proof.Machine

/-- Settles O1: the examples are the rule on three values. -/
theorem xtimeReplacesTopBitByFive : Obligations.XtimeReplacesTopBitByFive := by
  unfold Obligations.XtimeReplacesTopBitByFive
  exact ⟨xtime_eq, by decide, by decide, by decide⟩

/-- Settles O2: both products respect xor in each argument, so they are compared on the powers of x. -/
theorem gfMulDefinitionsAgree : Obligations.GfMulDefinitionsAgree := by
  unfold Obligations.GfMulDefinitionsAgree
  exact ⟨gfMul_eq_gfMulReduce, fun a => ⟨gfMul_zero a, zero_gfMul a, gfMul_one a, gfMul_two a⟩⟩

/-- Settles O4: a nonzero element is a power of ALPHA, so its 2047th power is 1. -/
theorem gfInvIsTheOneInverse : Obligations.GfInvIsTheOneInverse := by
  unfold Obligations.GfInvIsTheOneInverse
  exact fun a ha => ⟨gfMul_gfInv ha, fun _ => eq_gfInv_of_gfMul_eq_one, gfInv_eq_gfPow a⟩

/-- Settles O5: the laws of the product are inductions over the elements, those of the sum are laws of xor. -/
theorem fieldLawsHold : Obligations.FieldLawsHold := by
  unfold Obligations.FieldLawsHold
  exact fun a b c => ⟨BitVec.xor_comm a b, BitVec.xor_assoc a b c, BitVec.xor_zero, BitVec.xor_self, gfMul_comm a b,
    gfMul_assoc a b c, gfMul_one a, gfMul_xor a b c, gfMul_zero a, eq_zero_or_eq_zero_of_gfMul_eq_zero, gfMul_gfInv⟩

/-- Settles O6: the order of ALPHA is 2047. -/
theorem alphaIsPrimitive : Obligations.AlphaIsPrimitive := by
  unfold Obligations.AlphaIsPrimitive
  refine ⟨alpha_eq, gfPow_alpha_ne_zero, fun a ha => ?_, gfPow_alpha_2047, ?table, gfSum_gfPow_alpha_2047,
    foldl_toNat_gfPow_alpha⟩
  · obtain ⟨n, hn, rfl⟩ := exists_gfPow_alpha_eq ha
    exact ⟨n, hn, rfl, fun m hm heq => gfPow_alpha_injOn hm hn heq⟩
  case table =>
    simp only [gfPow_alpha]
    decide +kernel

end Sys2Proof.Proofs
end

section
/-! The commands of R88 to R94 behind the FAULTED test: `deliver` is all that a command with one result in an element
register does, `raise` all that a fault does. -/

namespace Sys2Proof.Machine

open Sys2Proof.Claims

/-- The ending shared by the commands that write an element register writes and returns the value, nothing else. -/
theorem State.elemResult_deliver (s : State) (rd : EReg) (v : Elem) : ElemResult s (s.deliver rd v) rd v := by
  have hwrites : WritesElem s (s.deliver rd v) rd v :=
    ⟨s.elem_setElem_self rd v, fun r hr => s.elem_setElem_ne rd r v hr⟩
  exact ⟨hwrites, rfl, rfl, rfl, rfl, rfl, rfl, rfl, rfl, rfl⟩

/-- Fault entry writes F and FCODE, answers the fault and leaves the rest (R169). -/
theorem State.faultsWith_raise (s : State) (f : FaultCode) : FaultsWith s (s.raise f) f.code.toNat := by
  refine ⟨rfl, rfl, rfl, ⟨rfl, rfl, rfl, rfl⟩, rfl, statusF_withFault .., ?fcode, ?otherBits, ?response⟩
  case fcode => rw [State.raise_status, statusFcode_withFault]
  case otherBits =>
    intro b hb
    rw [State.raise_status, getLsbD_withFault, if_neg (by omega), if_neg (by omega)]
  case response => rw [State.raise_responses, faultResponse_code]

end Sys2Proof.Machine

namespace Sys2Proof.Proofs

open Sys2Proof.Machine Sys2Proof.Claims

/-- A command that behind the FAULTED test delivers a value has, in the RUNNING state, that value as its one result. -/
theorem elemResult_of_exec_eq {i : Instr} {s : State} {rd : EReg} {v v' : Elem} (hrun : s.Running)
    (hexec : exec i s = .next (s.whenRunning (s.deliver rd v))) (hv : v = v') :
    ∃ t, exec i s = .next t ∧ ElemResult s t rd v' := by
  rw [s.whenRunning_of_running _ hrun] at hexec
  exact ⟨_, hexec, hv ▸ s.elemResult_deliver rd v⟩

/-- Settles O26: each of the four commands delivers its value; for GF.MUL the two definitions of R83 agree. -/
theorem gfLoadMoveAddMulResults : Obligations.GfLoadMoveAddMulResults := by
  unfold Obligations.GfLoadMoveAddMulResults
  refine ⟨fun s hrun => ⟨?ldi, ?mov, ?add, ?mul⟩, by decide, by decide, by decide, by decide, by decide +kernel⟩
  case ldi => exact fun rd imm _ => elemResult_of_exec_eq hrun rfl rfl
  case mov => exact fun rd ra => elemResult_of_exec_eq hrun rfl rfl
  case add => exact fun rd ra rb => elemResult_of_exec_eq hrun rfl rfl
  case mul => exact fun rd ra rb => elemResult_of_exec_eq hrun rfl (gfMul_eq_gfMulReduce ..)

/-- Settles O27: GF.INV tests its source for 0, and on the others `gfInv` is the inverse. -/
theorem gfInvResult : Obligations.GfInvResult := by
  unfold Obligations.GfInvResult
  refine ⟨fun s rd ra hrun => ⟨?nonzero, ?zero⟩, ?one, ?twice, by decide, ?two⟩
  case nonzero =>
    intro hne
    have hexec : exec (.gfInv rd ra) s = .next (s.whenRunning (s.deliver rd (gfInv (s.elem ra)))) := by
      rw [exec, execGfInv, if_neg hne]
    obtain ⟨t, ht, hresult⟩ := elemResult_of_exec_eq hrun hexec rfl
    exact ⟨t, _, ht, hresult, gfMul_gfInv hne⟩
  case zero =>
    intro hzero
    refine ⟨s.raise .invzero, ?_, s.faultsWith_raise .invzero⟩
    rw [exec, execGfInv, if_pos hzero, s.whenRunning_of_running _ hrun]
  case one => exact (eq_gfInv_of_gfMul_eq_one (gfMul_one 1)).symm
  case twice => exact fun a ha => ⟨gfInv_ne_zero ha, gfInv_gfInv ha⟩
  case two =>
    have hprod : gfMul 2 1026 = 1 := by decide +kernel
    exact (eq_gfInv_of_gfMul_eq_one hprod).symm

/-- Settles O28: square and multiply gives the n-fold product, whose corner cases are those of the group. -/
theorem gfPowResult : Obligations.GfPowResult := by
  unfold Obligations.GfPowResult
  refine ⟨?result, ?exponents, ?bases, by decide, by decide, by decide +kernel⟩
  case bases => exact fun n hn => ⟨zero_gfPow hn, one_gfPow n⟩
  case result => exact fun s rd ra imm hrun himm => elemResult_of_exec_eq hrun rfl (gfPowFast_eq_gfPow _ himm)
  case exponents => exact fun a => ⟨rfl, fun ha => ⟨(gfInv_eq_gfPow a).symm, gfPow_2047 ha⟩⟩

/-- The flag of a decided proposition is 1 where it holds and 0 elsewhere. -/
theorem flagData_decide (c : Prop) [Decidable c] : flagData (decide c) = if c then 1 else 0 := by
  split
  case isTrue hc => rw [decide_eq_true hc]; rfl
  case isFalse hc => rw [decide_eq_false hc]; rfl

/-- Settles O29: GF.EQ writes the one bit EQ and returns it. -/
theorem gfEqResult : Obligations.GfEqResult := by
  unfold Obligations.GfEqResult
  refine ⟨fun s ra rb hrun => ?_, by decide⟩
  have hexec : exec (.gfEq ra rb) s = .next ((s.setStatus (withEq s.status (decide (s.elem ra = s.elem rb)))).respond
      (flagData (decide (s.elem ra = s.elem rb)))) := by
    rw [exec, execGfEq, s.whenRunning_of_running _ hrun]
  refine ⟨_, hexec, rfl, rfl, rfl, ?eq, ?otherBits, ?response, rfl, rfl, rfl, rfl, rfl⟩
  case eq => rw [State.respond_status, State.setStatus_status, statusEq_withEq, decide_eq_true_eq]
  case otherBits =>
    intro b hb
    rw [State.respond_status, State.setStatus_status, getLsbD_withEq, if_neg hb]
  case response => rw [← flagData_decide]; rfl

end Sys2Proof.Proofs
end

section
/-! What the polynomial commands rest on: scan (R100) answers the degree of a normalised register, Horner's scheme (R101)
is a fold with a short value at 0 and at 1, and a command writes one polynomial register or raises one fault. -/

namespace Sys2Proof.Machine

open Sys2Proof.Claims

/-! ### scan -/

theorem scan_eq_neg_one_iff (w : Coefs) : scan w = -1 ↔ ∀ i, i < 14 → coefAt w i = 0 := by
  rcases scanFrom_spec w 14 with ⟨hscan, hzero⟩ | ⟨d, hscan, hd, hne, -⟩
  · exact iff_of_true hscan hzero
  · have hnonneg : scan w = d := hscan
    exact iff_of_false (by omega) fun hzero => hne (hzero d hd)

theorem scan_eq_natCast_iff (w : Coefs) (n : Nat) :
    scan w = n ↔ n < 14 ∧ coefAt w n ≠ 0 ∧ ∀ i, n < i → i < 14 → coefAt w i = 0 := by
  rcases scanFrom_spec w 14 with ⟨hscan, hzero⟩ | ⟨d, hscan, hd, hne, habove⟩
  · have hneg : scan w = -1 := hscan
    exact iff_of_false (by omega) fun ⟨hn, hne, _⟩ => hne (hzero n hn)
  · have hdeg : scan w = d := hscan
    rw [hdeg, Int.natCast_inj]
    constructor
    · rintro rfl
      exact ⟨hd, hne, habove⟩
    · rintro ⟨hn, hne', habove'⟩
      rcases Nat.lt_trichotomy d n with hlt | heq | hgt
      · exact absurd (habove n hlt hn) hne'
      · exact heq
      · exact absurd (habove' d hgt hd) hne

/-- The two answers scan can give. -/
theorem scan_cases (w : Coefs) : scan w = -1 ∨ ∃ d : Nat, scan w = d ∧ d < 14 := by
  rcases scanFrom_spec w 14 with ⟨hscan, -⟩ | ⟨d, hscan, hd, -⟩
  · exact .inl hscan
  · exact .inr ⟨d, hscan, hd⟩

theorem degreeLegal_scan (w : Coefs) : DegreeLegal (scan w) := by
  rcases scan_cases w with hneg | ⟨d, hdeg, hd⟩ <;> constructor <;> omega

/-- A register whose degree is found by scanning is normalised (R24). -/
theorem normalised_scanned (w : Coefs) : Normalised (PolyReg.scanned w) := by
  simp only [Normalised, PolyReg.scanned_c, PolyReg.scanned_deg]
  rcases scan_cases w with hneg | ⟨d, hdeg, -⟩
  · exact ⟨fun i hi _ => (scan_eq_neg_one_iff w).mp hneg i hi, .inl hneg⟩
  · obtain ⟨hd, hne, habove⟩ := (scan_eq_natCast_iff w d).mp hdeg
    rw [hdeg]
    exact ⟨fun i hi hlt => habove i (by omega) hi, .inr ⟨by omega, by omega, hne⟩⟩

theorem scanned_eq_empty {w : Coefs} (hzero : ∀ i, i < 14 → coefAt w i = 0) : PolyReg.scanned w = PolyReg.empty := by
  have hc : w = PolyReg.empty.c := coefs_ext _ _ fun i hi => by rw [hzero i hi, PolyReg.coefAt_empty]
  rw [PolyReg.scanned, (scan_eq_neg_one_iff w).mpr hzero, hc]
  rfl

/-! ### Horner's scheme and sums of logical coefficients -/

section Horner
variable (w : Coefs) (x : Elem) (n : Nat) (acc : Elem)

theorem hornerFrom_eq_foldl :
    hornerFrom w x n acc = (List.range n).reverse.foldl (fun acc i => gfMul acc x ^^^ coefAt w i) acc := by
  induction n generalizing acc with
  | zero => rfl
  | succ n ih => simp [hornerFrom, ih, List.range_succ, gfAdd]

/-- At 0 only the last round counts. -/
theorem hornerFrom_at_zero : hornerFrom w 0 (n + 1) acc = coefAt w 0 := by
  induction n generalizing acc with
  | zero =>
    rw [hornerFrom, hornerFrom, gfMul_zero]
    exact BitVec.zero_xor
  | succ n ih => rw [hornerFrom, ih]

/-- At 1 the rounds add the coefficients up. -/
theorem hornerFrom_at_one : hornerFrom w 1 n acc = acc ^^^ gfSum (coefAt w) n := by
  induction n generalizing acc with
  | zero => simp [hornerFrom, gfSum]
  | succ n ih =>
    rw [hornerFrom, ih, gfMul_one, gfSum, gfAdd, gfAdd]
    ac_rfl

end Horner

theorem gfSum_congr {f g : Nat → Elem} {n : Nat} (h : ∀ i, i < n → f i = g i) : gfSum f n = gfSum g n := by
  induction n with
  | zero => rfl
  | succ n ih => rw [gfSum, gfSum, ih fun i hi => h i (by omega), h n (by omega)]

/-- Terms that are zero from position `m` on do not count. -/
theorem gfSum_eq_of_zero_from {f : Nat → Elem} {m n : Nat} (hmn : m ≤ n) (hzero : ∀ i, m ≤ i → f i = 0) :
    gfSum f n = gfSum f m := by
  induction n, hmn using Nat.le_induction with
  | base => rfl
  | succ n hmn ih => rw [gfSum, ih, hzero n hmn, gfAdd, BitVec.ofNat_eq_ofNat, BitVec.xor_zero]

theorem horner_of_deg_neg_one {q : PolyReg} (hdeg : q.deg = -1) (x : Elem) : horner q x = 0 := by
  rw [horner, hdeg]
  rfl

theorem horner_at_zero {q : PolyReg} (hdeg : DegreeLegal q.deg) : horner q 0 = logical q 0 := by
  by_cases hneg : q.deg = -1
  · rw [horner_of_deg_neg_one hneg, logical_of_gt q 0 (by omega)]
  · obtain ⟨d, hd⟩ : ∃ d : Nat, (q.deg + 1).toNat = d + 1 := ⟨q.deg.toNat, by omega⟩
    rw [horner, hd, hornerFrom_at_zero]
    exact (logical_of_le q 0 (by omega)).symm

theorem horner_at_one {q : PolyReg} (hdeg : DegreeLegal q.deg) : horner q 1 = gfSum (fun i => logical q i) 14 := by
  have hlow : ∀ i : Nat, i < (q.deg + 1).toNat → logical q i = coefAt q.c i :=
    fun i hi => logical_of_le q i (by omega)
  have hhigh : ∀ i : Nat, (q.deg + 1).toNat ≤ i → logical q i = 0 := fun i hi => logical_of_gt q i (by omega)
  rw [gfSum_eq_of_zero_from (by omega : (q.deg + 1).toNat ≤ 14) hhigh, gfSum_congr hlow, horner, hornerFrom_at_one]
  simp

/-! ### Logical coefficients -/

/-- The empty logical polynomial, whatever the coefficients hold (R25). -/
theorem logical_of_deg_neg_one {q : PolyReg} (hdeg : q.deg = -1) (i : Int) : logical q i = 0 := by
  have hnot : ¬ (0 ≤ i ∧ i ≤ q.deg) := by omega
  rw [logical, if_neg hnot]

/-- R110's L(pd, i - 1) needs no case for i = 0: there is no coefficient below position 0. -/
theorem ite_logical_pred (q : PolyReg) (i : Nat) :
    (if i = 0 then 0 else logical q ((i : Int) - 1)) = logical q ((i : Int) - 1) := by
  split
  case isTrue hi => rw [hi]; rfl
  case isFalse => rfl

/-! ### A write of one polynomial register -/

@[simp] theorem State.poly_respond (s : State) (d : Half) (k : PReg) : (s.respond d).poly k = s.poly k := rfl

@[simp] theorem State.poly_setCoefs_self (s : State) (k : PReg) (w : Coefs) :
    (s.setCoefs k w).poly k = { s.poly k with c := w } := s.poly_setPoly_self k _

@[simp] theorem State.poly_setDeg_self (s : State) (k : PReg) (d : Int) :
    (s.setDeg k d).poly k = { s.poly k with deg := d } := s.poly_setPoly_self k _

@[simp] theorem State.poly_deliverPoly_self (s : State) (k : PReg) (q : PolyReg) : (s.deliverPoly k q).poly k = q :=
  s.poly_setPoly_self k q

/-- A write of one polynomial register, answered, changes nothing else. -/
theorem State.onlyPoly_setPoly_respond (s : State) (pd : PReg) (q : PolyReg) (data : Half) :
    OnlyPoly s ((s.setPoly pd q).respond data) pd data :=
  ⟨fun k hk => s.poly_setPoly_ne pd k q hk, rfl, rfl, rfl, rfl, rfl, rfl, rfl, rfl, rfl⟩

end Sys2Proof.Machine

namespace Sys2Proof.Proofs

open Sys2Proof.Machine Sys2Proof.Claims

/-- The ending of PL.SETDEG, PL.MULXA and PL.ADD: one register written, its degree code answered. -/
theorem onlyPoly_deliverPoly_scanned (s : State) (pd : PReg) (w : Coefs) :
    OnlyPoly s (s.deliverPoly pd (PolyReg.scanned w)) pd
      (degreeCode ((s.deliverPoly pd (PolyReg.scanned w)).poly pd).deg) := by
  rw [State.poly_deliverPoly_self, PolyReg.scanned_deg, ← degreeData_eq_degreeCode (degreeLegal_scan w)]
  exact s.onlyPoly_setPoly_respond pd _ _

/-- The FAULTED test lets a command through in the RUNNING state. -/
theorem exec_of_running {i : Instr} {s k : State} (hrun : s.Running) (hexec : exec i s = .next (s.whenRunning k)) :
    exec i s = .next k := by
  rw [hexec, s.whenRunning_of_running k hrun]

/-- A command that behind the FAULTED test raises a fault enters that fault in the RUNNING state. -/
theorem faultsWith_of_exec_eq {i : Instr} {s : State} (f : FaultCode) (hrun : s.Running)
    (hexec : exec i s = .next (s.whenRunning (s.raise f))) :
    ∃ t, exec i s = .next t ∧ FaultsWith s t f.code.toNat :=
  ⟨_, exec_of_running hrun hexec, s.faultsWith_raise f⟩

end Sys2Proof.Proofs
end

section
/-! The commands of R102 to R111 behind the FAULTED test. -/

namespace Sys2Proof.Proofs

open Sys2Proof.Machine Sys2Proof.Claims

/-- Settles O34: SETDEG delivers the scanned register, and the two answers of scan are those of R108. -/
theorem plSetdegResult : Obligations.PlSetdegResult := by
  unfold Obligations.PlSetdegResult
  refine ⟨fun s pd hrun => ⟨_, exec_of_running hrun rfl, ?coefs, ?normalised, ?empty, ?degree, ?frame⟩, by decide⟩
  case frame => exact onlyPoly_deliverPoly_scanned s pd _
  all_goals rw [State.poly_deliverPoly_self]
  case coefs => rfl
  case normalised => exact normalised_scanned _
  case empty => exact scan_eq_neg_one_iff _
  case degree => exact scan_eq_natCast_iff _

/-- Settles O35: the value delivered is Horner's, whose fold and values at 0 and 1 are lemmas about `horner`. -/
theorem plEvalResult : Obligations.PlEvalResult := by
  unfold Obligations.PlEvalResult
  refine ⟨fun s rd pd ra hrun hdeg => ?_, by decide⟩
  obtain ⟨t, hexec, hresult⟩ := elemResult_of_exec_eq (i := .plEval rd pd ra) hrun rfl rfl
  refine ⟨t, horner (s.poly pd) (s.elem ra), hexec, hresult, hornerFrom_eq_foldl .., ?negative, ?zero, ?one⟩
  case negative => exact fun hneg => horner_of_deg_neg_one hneg _
  case zero => exact fun hx => by rw [hx, horner_at_zero hdeg]
  case one => exact fun hx => by rw [hx, horner_at_one hdeg]

/-- MULXA of the empty logical polynomial leaves no coefficient. -/
theorem coefAt_timesXMinus_of_deg_neg_one {q : PolyReg} (hdeg : q.deg = -1) (a : Elem) (i : Nat) (hi : i < 14) :
    coefAt (timesXMinus q a) i = 0 := by
  rw [coefAt_timesXMinus q a i hi, logical_of_deg_neg_one hdeg, logical_of_deg_neg_one hdeg, gfMul_zero]
  rfl

/-- N - 1 of R110 is 13. -/
theorem exec_plMulxa (pd : PReg) (ra : EReg) (s : State) :
    exec (.plMulxa pd ra) s = .next (s.whenRunning (if (s.poly pd).deg = 13 then s.raise .polyovf
      else s.deliverPoly pd (PolyReg.scanned (timesXMinus (s.poly pd) (s.elem ra))))) := rfl

/-- Settles O37: at degree 13 the overflow test comes first; below it the scanned product is delivered. -/
theorem plMulxaResult : Obligations.PlMulxaResult := by
  unfold Obligations.PlMulxaResult
  refine ⟨fun s pd ra hrun => ⟨fun hfull => ?overflow, fun hroom => ?product⟩, by decide, by decide⟩
  case overflow =>
    refine faultsWith_of_exec_eq .polyovf hrun ?_
    rw [exec_plMulxa, if_pos hfull]
  case product =>
    have hexec : exec (.plMulxa pd ra) s =
        .next (s.deliverPoly pd (PolyReg.scanned (timesXMinus (s.poly pd) (s.elem ra)))) := by
      refine exec_of_running hrun ?_
      rw [exec_plMulxa, if_neg hroom]
    refine ⟨_, hexec, ?coefs, ?normalised, ?empty, onlyPoly_deliverPoly_scanned s pd _⟩
    all_goals rw [State.poly_deliverPoly_self]
    case coefs => exact fun i hi => by rw [ite_logical_pred, PolyReg.scanned_c, coefAt_timesXMinus _ _ i hi]
    case normalised => exact normalised_scanned _
    case empty => exact fun hneg => scanned_eq_empty (coefAt_timesXMinus_of_deg_neg_one hneg _)

/-- A polynomial added to itself leaves no coefficient: addition is xor. -/
theorem coefAt_sumCoefs_self (q : PolyReg) (i : Nat) (hi : i < 14) : coefAt (sumCoefs q q) i = 0 := by
  rw [coefAt_sumCoefs q q i hi]
  exact BitVec.xor_self

/-- Settles O38: the scanned sum is delivered to `p[pd]`, and the frame covers `p[ps]` when it is another register. -/
theorem plAddResult : Obligations.PlAddResult := by
  unfold Obligations.PlAddResult
  refine ⟨fun s pd ps hrun => ?_, by decide⟩
  have honly := onlyPoly_deliverPoly_scanned s pd (sumCoefs (s.poly pd) (s.poly ps))
  have ⟨hothers, _⟩ := honly
  refine ⟨_, exec_of_running hrun rfl, ?coefs, ?normalised, hothers ps, ?same, honly⟩
  all_goals rw [State.poly_deliverPoly_self]
  case coefs => exact coefAt_sumCoefs _ _
  case normalised => exact normalised_scanned _
  case same =>
    rintro rfl
    exact scanned_eq_empty (coefAt_sumCoefs_self _)

/-- Settles O30: the one register written is the empty polynomial (R33). -/
theorem plClrResult : Obligations.PlClrResult := by
  unfold Obligations.PlClrResult
  refine ⟨fun s pd hrun => ⟨_, exec_of_running hrun rfl, ?coefs, ?degree, s.onlyPoly_setPoly_respond pd _ 0⟩, by decide⟩
  all_goals rw [State.poly_respond, State.poly_setPoly_self]
  case coefs => exact fun i _ => PolyReg.coefAt_empty i
  case degree => rfl

/-- Settles O31: the index test of R65 decides between the coefficient and OPERAND. -/
theorem plRdcResult : Obligations.PlRdcResult := by
  unfold Obligations.PlRdcResult
  refine ⟨fun s rd pd idx hrun => ⟨fun hidx => ?read, fun hidx => ?fault⟩, by decide⟩
  case read =>
    have hlegal : coefIndexLegal idx = true := by rw [coefIndexLegal_eq, decide_eq_true]; omega
    refine elemResult_of_exec_eq hrun ?_ rfl
    rw [exec, execPlRdc, if_pos hlegal]
  case fault =>
    have hillegal : ¬ coefIndexLegal idx = true := by rw [coefIndexLegal_eq, decide_eq_true_eq]; omega
    refine faultsWith_of_exec_eq .operand hrun ?_
    rw [exec, execPlRdc, if_neg hillegal]

/-- PL.WRC and PL.WRCI are both the write shared by them, of the register's or the immediate's value. -/
theorem exec_plWrc_or_plWrci {s : State} {pd : PReg} {idx : Nat} {v : Elem} {i : Instr}
    (hi : (∃ ra, i = .plWrc pd idx ra ∧ v = s.elem ra) ∨ (∃ imm, i = .plWrci pd idx imm ∧ imm < 2048 ∧ v.toNat = imm)) :
    exec i s = .next (s.whenRunning (s.writeCoef pd idx v)) := by
  rcases hi with ⟨ra, rfl, rfl⟩ | ⟨imm, rfl, -, rfl⟩
  · rfl
  · rw [exec, execPlWrci, immElem, BitVec.ofNat_toNat, BitVec.setWidth_eq]

/-- Settles O32: the shared write replaces one coefficient of the register, or raises OPERAND. -/
theorem plWrcAndWrciResults : Obligations.PlWrcAndWrciResults := by
  unfold Obligations.PlWrcAndWrciResults
  refine ⟨fun s pd idx v i hrun hi => ?_, by decide, by decide⟩
  have hexec := exec_plWrc_or_plWrci hi
  rcases s.writeCoef_cases pd idx v with ⟨hlt, hwrite⟩ | ⟨hge, hraise⟩
  · refine ⟨fun _ => ?_, by omega⟩
    rw [hwrite] at hexec
    refine ⟨_, exec_of_running hrun hexec, ?written, ?others, ?degree, s.onlyPoly_setPoly_respond pd _ _⟩
    all_goals rw [State.respondElem, State.poly_respond, State.poly_setCoefs_self]
    case written => exact coefAt_setCoefAt_self _ idx v hlt
    case others => exact fun j hj => coefAt_setCoefAt_ne _ idx j v hj.symm
  · refine ⟨by omega, fun _ => ?_⟩
    rw [hraise] at hexec
    exact faultsWith_of_exec_eq .operand hrun hexec

/-- Settles O33: the degree codes of R67 are the legal values of PL.WRDEG, and the answer of PL.RDDEG. -/
theorem plRddegAndWrdegResults : Obligations.PlRddegAndWrdegResults := by
  unfold Obligations.PlRddegAndWrdegResults
  refine ⟨fun s pd hrun => ⟨fun hdeg => ?read, fun imm d hcode => ?write, fun imm hlarge hne => ?fault⟩,
    by decide, by decide, by decide, by decide⟩
  case read =>
    rw [← degreeData_eq_degreeCode hdeg]
    exact ⟨_, exec_of_running hrun rfl, ⟨rfl, rfl, rfl, rfl, rfl, rfl, rfl, rfl⟩, rfl, rfl, rfl, rfl, rfl, rfl⟩
  case write =>
    have hdegree : degreeOfImm imm = some d := by
      rw [degreeOfImm_eq]
      rcases hcode with ⟨hle, rfl⟩ | ⟨rfl, rfl⟩
      · rw [if_pos (by omega)]
      · rfl
    have hexec : exec (.plWrdeg pd imm) s = .next ((s.setDeg pd d).respond (BitVec.ofNat 16 imm)) := by
      refine exec_of_running hrun ?_
      rw [exec, execPlWrdeg, hdegree]
    refine ⟨_, hexec, s.c_setDeg pd pd d, ?_, s.onlyPoly_setPoly_respond pd _ _⟩
    rw [State.poly_respond, State.poly_setDeg_self]
  case fault =>
    have hnone : degreeOfImm imm = none := by rw [degreeOfImm_eq, if_neg (by omega), if_neg hne]
    refine faultsWith_of_exec_eq .operand hrun ?_
    rw [exec, execPlWrdeg, hnone]

end Sys2Proof.Proofs
end

section
/-! The code of R120 to R131 with its one root 1: evaluating a word there adds its symbols up, so a word is a codeword
when their xor is 0, and in each position exactly one value makes it one: the xor of the other symbols. RS.ENC computes
that value by division, RS.COR by scanning. -/

namespace Sys2Proof.Machine

open Sys2Proof.Claims

/-! ### Codewords -/

/-- The one root is ALPHA^0 (R121 with K = 1, B = 0). -/
theorem rootOf_hw_zero : rootOf Config.hw 0 = 1 := rfl

theorem xorWhere_true (w : Coefs) : xorWhere w (fun _ => true) = gfSum (coefAt w) 14 := rfl

theorem wordEval_root (w : Coefs) : wordEval w (rootOf Config.hw 0) = xorWhere w (fun _ => true) := by
  rw [rootOf_hw_zero]
  calc wordEval w 1 = 0 ^^^ gfSum (coefAt w) 14 := hornerFrom_at_one w 14 0
    _ = xorWhere w (fun _ => true) := BitVec.zero_xor

theorem wordEval_root_eq_zero_iff (w : Coefs) : wordEval w (rootOf Config.hw 0) = 0 ↔ Codeword w := by
  rw [wordEval_root]

theorem wordEval_roots_iff (w : Coefs) :
    (∀ j, j < Config.hw.k → wordEval w (rootOf Config.hw j) = 0) ↔ Codeword w := by
  rw [← wordEval_root_eq_zero_iff]
  refine ⟨fun h => h 0 (by decide), fun h j hj => ?_⟩
  obtain rfl : j = 0 := Nat.lt_one_iff.mp hj
  exact h

theorem isCodeword_iff (w : Coefs) : isCodeword Config.hw w = true ↔ Codeword w := by
  rw [← wordEval_roots_iff, isCodeword, List.all_eq_true]
  simp only [List.mem_range, beq_iff_eq]

/-! ### One position apart from the others -/

/-- A sum is one of its terms and the sum of the others. -/
theorem gfSum_eq_xor_others (f : Nat → Elem) {i n : Nat} (hi : i < n) :
    gfSum f n = f i ^^^ gfSum (fun j => if j ≠ i then f j else 0) n := by
  induction n with
  | zero => omega
  | succ n ih =>
    rw [gfSum, gfSum, gfAdd, gfAdd]
    rcases Nat.lt_succ_iff_lt_or_eq.mp hi with hlt | rfl
    · rw [ih hlt, if_pos (by omega)]
      ac_rfl
    · have hbelow : gfSum (fun j => if j ≠ i then f j else 0) i = gfSum f i :=
        gfSum_congr fun j hj => if_pos (by omega)
      rw [hbelow, if_neg (not_not.mpr rfl)]
      exact (BitVec.xor_comm ..).trans (congrArg (f i ^^^ ·) BitVec.xor_zero.symm)

/-- The xor of the symbols at the positions other than `i` (R131 at the root 1). -/
def xorOthers (w : Coefs) (i : Nat) : Elem := xorWhere w (fun j => decide (j ≠ i))

theorem xorWhere_true_eq_xor_others (w : Coefs) {i : Nat} (hi : i < 14) :
    xorWhere w (fun _ => true) = coefAt w i ^^^ xorOthers w i := by
  rw [xorWhere_true, gfSum_eq_xor_others (coefAt w) hi]
  simp only [xorOthers, xorWhere, decide_eq_true_eq]

theorem codeword_iff (w : Coefs) {i : Nat} (hi : i < 14) : Codeword w ↔ coefAt w i = xorOthers w i := by
  rw [Codeword, xorWhere_true_eq_xor_others w hi]
  exact BitVec.xor_eq_zero_iff

theorem xorOthers_setCoefAt (w : Coefs) (i : Nat) (v : Elem) : xorOthers (setCoefAt w i v) i = xorOthers w i := by
  refine gfSum_congr fun j _ => ?_
  by_cases hj : j = i
  · simp [hj]
  · rw [coefAt_setCoefAt_ne w i j v (Ne.symm hj)]

/-- R127, R131: one value makes the word a codeword, whatever the position held. -/
theorem codeword_setCoefAt_iff (w : Coefs) {i : Nat} (hi : i < 14) (v : Elem) :
    Codeword (setCoefAt w i v) ↔ v = xorOthers w i := by
  rw [codeword_iff _ hi, coefAt_setCoefAt_self w i v hi, xorOthers_setCoefAt]

/-- R130: a codeword's symbol is the one value that fits, so any other is detected. -/
theorem not_codeword_setCoefAt {w : Coefs} (hw : Codeword w) {i : Nat} (hi : i < 14) {v : Elem}
    (hne : coefAt w i ≠ v) : ¬ Codeword (setCoefAt w i v) := by
  rw [codeword_setCoefAt_iff w hi, ← (codeword_iff w hi).mp hw]
  exact hne.symm

/-- A word that agrees with `w` outside position `i` is `w` with that symbol replaced. -/
theorem eq_setCoefAt {w w' : Coefs} {i : Nat} (hi : i < 14) (hothers : ∀ j, j ≠ i → coefAt w' j = coefAt w j) :
    w' = setCoefAt w i (coefAt w' i) := by
  refine coefs_ext _ _ fun j _ => ?_
  by_cases hj : j = i
  · rw [hj, coefAt_setCoefAt_self w i _ hi]
  · rw [coefAt_setCoefAt_ne w i j _ (Ne.symm hj), hothers j hj]

/-- The word with the symbol at position `i` replaced by the one that makes it a codeword. -/
def completeAt (w : Coefs) (i : Nat) : Coefs := setCoefAt w i (xorOthers w i)

theorem codeword_completeAt (w : Coefs) {i : Nat} (hi : i < 14) : Codeword (completeAt w i) :=
  (codeword_setCoefAt_iff w hi _).mpr rfl

theorem coefAt_completeAt_self (w : Coefs) {i : Nat} (hi : i < 14) : coefAt (completeAt w i) i = xorOthers w i :=
  coefAt_setCoefAt_self w i _ hi

theorem coefAt_completeAt_ne (w : Coefs) {i j : Nat} (hj : j ≠ i) : coefAt (completeAt w i) j = coefAt w j :=
  coefAt_setCoefAt_ne w i j _ hj.symm

/-! ### The scan of RS.COR -/

/-- When one value alone makes the word a codeword, a scan whose candidates include it finds it. -/
theorem searchFrom_eq_some {P : Params} {w : Coefs} {epos : Nat} {u : Elem}
    (hunique : ∀ v, isCodeword P (setCoefAt w epos v) = true ↔ v = u) (fuel start : Nat) (hstart : start ≤ u.toNat)
    (hend : u.toNat < start + fuel) : searchFrom P w epos fuel start = some u := by
  induction fuel generalizing start with
  | zero => omega
  | succ fuel ih =>
    rw [searchFrom]
    split
    case isTrue hfound => rw [(hunique _).mp hfound]
    case isFalse hmiss =>
      have hne : start ≠ u.toNat := by
        rintro rfl
        exact hmiss ((hunique _).mpr ((BitVec.ofNat_toNat ..).trans (BitVec.setWidth_eq u)))
      exact ih (start + 1) (by omega) (by omega)

theorem correctErasure_hw (w : Coefs) {i : Nat} (hi : i < 14) :
    correctErasure Config.hw w i = some (xorOthers w i) := by
  have hunique : ∀ v, isCodeword Config.hw (setCoefAt w i v) = true ↔ v = xorOthers w i :=
    fun v => (isCodeword_iff _).trans (codeword_setCoefAt_iff w hi v)
  exact searchFrom_eq_some hunique 2048 0 (Nat.zero_le _) (by omega)

/-! ### The generator and the division of RS.ENC -/

theorem genPoly_hw : genPoly Config.hw = [1, 1] := by decide +kernel

theorem getD_genPoly_hw {j : Nat} (hj : j ≤ 1) : (genPoly Config.hw).getD j 0 = 1 := by
  rw [genPoly_hw]
  interval_cases j <;> rfl

theorem State.gen_eq_one {s : State} (hconst : s.ConstantsHold) {j : Nat} (hj : j ≤ 1) : s.gen j = 1 := by
  obtain ⟨-, -, -, hg⟩ := hconst
  rw [State.gen, hg]
  interval_cases j <;> rfl

section Division
variable {G : Nat → Elem} (hG : ∀ j, j ≤ 1 → G j = 1) (w : Coefs)
include hG

/-- A round of the division by x + 1 carries the symbol at its position to the next position down. -/
theorem coefAt_divideRound {n j : Nat} (hj : j ≤ n) (hn : n < 14) :
    coefAt (divideRound Config.hw G w (n + 1)) j =
      if n = j then coefAt w n ^^^ coefAt w (n + 1) else coefAt w j := by
  by_cases hf : coefAt w (n + 1) = 0
  · have hround : divideRound Config.hw G w (n + 1) = w := if_neg (not_not.mpr hf)
    rw [hround, hf]
    split
    case isTrue heq => rw [← heq, BitVec.ofNat_eq_ofNat, BitVec.xor_zero]
    case isFalse => rfl
  · have hround : divideRound Config.hw G w (n + 1) =
        let w' := setCoefAt w n (gfAdd (coefAt w n) (gfMul (coefAt w (n + 1)) (G 0)))
        setCoefAt w' (n + 1) (gfAdd (coefAt w' (n + 1)) (gfMul (coefAt w (n + 1)) (G 1))) := if_pos hf
    rw [hround, coefAt_setCoefAt_ne _ (n + 1) j _ (by omega), coefAt_setCoefAt, hG 0 (by decide), gfMul_one]
    simp only [hn, and_true, gfAdd]

/-- So the symbols add up in position 0: the remainder modulo x + 1 is the value at 1 (R125). -/
theorem coefAt_divideFrom_zero {n : Nat} (hn : n < 14) :
    coefAt (divideFrom Config.hw G n w) 0 = gfSum (coefAt w) (n + 1) := by
  induction n generalizing w with
  | zero => exact BitVec.zero_xor.symm
  | succ n ih =>
    have hpos : Config.hw.k + n = n + 1 := Nat.add_comm 1 n
    have hbelow : gfSum (coefAt (divideRound Config.hw G w (n + 1))) n = gfSum (coefAt w) n :=
      gfSum_congr fun j hj => by rw [coefAt_divideRound hG w hj.le (by omega), if_neg hj.ne']
    calc coefAt (divideFrom Config.hw G (n + 1) w) 0
        = gfSum (coefAt (divideRound Config.hw G w (n + 1))) (n + 1) := by rw [divideFrom, hpos, ih _ (by omega)]
      _ = gfSum (coefAt w) n ^^^ (coefAt w n ^^^ coefAt w (n + 1)) := by
          rw [gfSum, hbelow, coefAt_divideRound hG w le_rfl (by omega), if_pos rfl, gfAdd]
      _ = gfSum (coefAt w) (n + 2) := (BitVec.xor_assoc ..).symm

theorem encodeWord_hw : encodeWord Config.hw G w = setCoefAt w 0 (xorWhere w fun _ => true) :=
  congrArg (setCoefAt w 0) (coefAt_divideFrom_zero hG w (by decide : 13 < 14))

end Division

/-- With the check position empty, the check symbol is the xor of the data symbols. -/
theorem encodeWord_gen {s : State} (hconst : s.ConstantsHold) {w : Coefs} (hempty : coefAt w 0 = 0) :
    encodeWord Config.hw s.gen w = completeAt w 0 := by
  rw [encodeWord_hw (fun j => s.gen_eq_one hconst) w, xorWhere_true_eq_xor_others w (by decide : 0 < 14), hempty,
    BitVec.ofNat_eq_ofNat, BitVec.zero_xor, completeAt]

/-! ### Tests and flags of the commands -/

theorem checkOccupied_hw (w : Coefs) : checkOccupied Config.hw w = true ↔ coefAt w 0 ≠ 0 := by
  simp [checkOccupied]

theorem flagData_eq_ite (b : Bool) : flagData b = if b then 1 else 0 := by cases b <;> rfl

end Sys2Proof.Machine
end

section
/-! The commands of R125 to R128 behind the FAULTED test, and detection (R130) as a run of two commands. -/

namespace Sys2Proof.Proofs

open Sys2Proof.Machine Sys2Proof.Claims

/-- Settles O45: the generator's constants are the polynomial built from its root, and the index test decides. -/
theorem rsGenResult : Obligations.RsGenResult := by
  unfold Obligations.RsGenResult
  refine ⟨fun s rd idx hrun => ⟨fun hidx hconst => ?read, fun hidx => ?fault⟩, genPoly_hw, by decide, by decide,
    by decide⟩
  case read =>
    have hlegal : genIndexLegal idx = true := by rw [genIndexLegal_eq, decide_eq_true hidx]
    refine elemResult_of_exec_eq hrun ?_ ((s.gen_eq_one hconst hidx).trans (getD_genPoly_hw hidx).symm)
    rw [exec, execRsGen, if_pos hlegal]
  case fault =>
    have hillegal : ¬ genIndexLegal idx = true := by rw [genIndexLegal_eq, decide_eq_true_eq]; omega
    refine faultsWith_of_exec_eq .operand hrun ?_
    rw [exec, execRsGen, if_neg hillegal]

/-- What RS.ENC does with the word it encodes (R125). -/
theorem exec_rsEnc {s : State} (hrun : s.Running) (hconst : s.ConstantsHold) {pd : PReg}
    (hempty : coefAt (s.poly pd).c 0 = 0) :
    exec (.rsEnc pd) s = .next ((s.setPoly pd (PolyReg.scanned (completeAt (s.poly pd).c 0))).respondElem
      (coefAt (completeAt (s.poly pd).c 0) 0)) := by
  have hclear : ¬ checkOccupied Config.hw (s.poly pd).c = true := by rw [checkOccupied_hw, not_not, hempty]
  refine exec_of_running hrun ?_
  rw [exec, execRsEnc, if_neg hclear]
  simp only [encodeWord_gen hconst hempty]

/-- Settles O41: the division finds the one symbol that makes the word a codeword, and an occupied check position
raises ENCPRE. -/
theorem rsEncResult : Obligations.RsEncResult := by
  unfold Obligations.RsEncResult
  refine ⟨fun s pd hrun hconst => ⟨fun hempty => ?encode, fun hoccupied => ?fault⟩, by decide⟩
  case encode =>
    refine ⟨_, exec_rsEnc hrun hconst hempty, ?_⟩
    rw [State.respondElem, State.poly_respond, State.poly_setPoly_self]
    refine ⟨?roots, ?unique, ?data, normalised_scanned _, s.onlyPoly_setPoly_respond pd _ _⟩
    case roots => exact (wordEval_roots_iff _).mpr (codeword_completeAt _ (by decide))
    case unique =>
      intro v hv
      rw [PolyReg.scanned_c, coefAt_completeAt_self _ (by decide)]
      exact (codeword_setCoefAt_iff _ (by decide) v).mp ((wordEval_root_eq_zero_iff _).mp hv)
    case data => exact fun i hi => coefAt_completeAt_ne _ (by omega)
  case fault =>
    refine faultsWith_of_exec_eq .encpre hrun ?_
    rw [exec, execRsEnc, if_pos ((checkOccupied_hw _).mpr hoccupied)]

/-- Settles O42: OK is written with the test of R124, which is the xor of the symbols being 0. -/
theorem rsVfyResult : Obligations.RsVfyResult := by
  unfold Obligations.RsVfyResult
  refine ⟨fun s pd hrun => ⟨_, exec_of_running hrun rfl, rfl, rfl, rfl, ?_⟩, by decide⟩
  have hok := isCodeword_iff (s.poly pd).c
  rw [State.respond_status, State.setStatus_status, statusOk_withOk]
  refine ⟨hok.trans (wordEval_root_eq_zero_iff _).symm, hok, ?otherBits, ?response, rfl, rfl, rfl, rfl, rfl⟩
  case otherBits => exact fun b hb => by rw [getLsbD_withOk, if_neg hb]
  case response => rw [← flagData_eq_ite]; rfl

/-- What RS.COR does with the value it finds (R127). -/
theorem exec_rsCor {s : State} (hrun : s.Running) (rd : EReg) (pd : PReg) {idx : Nat} (hidx : idx < 14) :
    exec (.rsCor rd pd idx) s = .next
      ((((s.setPoly pd (PolyReg.scanned (completeAt (s.poly pd).c idx))).setElem rd
        (xorOthers (s.poly pd).c idx)).setStatus (withOk s.status true)).respondElem
          (xorOthers (s.poly pd).c idx)) := by
  have hlegal : coefIndexLegal idx = true := by rw [coefIndexLegal_eq, decide_eq_true hidx]
  refine exec_of_running hrun ?_
  rw [exec, execRsCor, if_pos hlegal, correctErasure_hw _ hidx, completeAt]

/-- Settles O43: the scan finds the one value that makes the word a codeword, the xor of the other symbols. -/
theorem rsCorResult : Obligations.RsCorResult := by
  unfold Obligations.RsCorResult
  refine ⟨fun s rd pd idx hrun => ⟨fun hidx => ?correct, fun hidx => ?fault⟩, by decide⟩
  case correct =>
    have hlt : idx < 14 := by omega
    refine ⟨_, xorOthers (s.poly pd).c idx, exec_rsCor hrun rd pd hlt, ?_⟩
    simp only [State.respondElem, State.poly_respond, State.poly_setStatus, State.poly_setElem,
      State.poly_setPoly_self, State.respond_status, State.setStatus_status]
    refine ⟨?unique, coefAt_completeAt_self _ hlt, fun i hi => coefAt_completeAt_ne _ hi, normalised_scanned _,
      fun k hk => s.poly_setPoly_ne pd k _ hk, ⟨?elem, ?otherElems⟩, statusOk_withOk .., ?otherBits,
      rfl, rfl, rfl, rfl, rfl, rfl, rfl⟩
    case unique => exact fun v => (wordEval_roots_iff _).trans (codeword_setCoefAt_iff _ hlt v)
    case elem => exact State.elem_setElem_self _ rd _
    case otherElems => exact fun r hr => State.elem_setElem_ne _ rd r _ hr
    case otherBits => exact fun b hb => by rw [getLsbD_withOk, if_neg hb]
  case fault =>
    have hillegal : ¬ coefIndexLegal idx = true := by rw [coefIndexLegal_eq, decide_eq_true_eq]; omega
    refine faultsWith_of_exec_eq .operand hrun ?_
    rw [exec, execRsCor, if_neg hillegal]

/-- Settles O46: PL.WRCI replaces one symbol of the codeword, and by R130 the word that RS.VFY tests is none. -/
theorem singleSubstitutionIsDetected : Obligations.SingleSubstitutionIsDetected := by
  unfold Obligations.SingleSubstitutionIsDetected
  intro s pd i imm hrun hcode hi himm hne
  have himmNat : (BitVec.ofNat 11 imm).toNat = imm := Nat.mod_eq_of_lt himm
  have ⟨hwrci, _⟩ := plWrcAndWrciResults
  have ⟨hwrite, _⟩ := hwrci s pd i (BitVec.ofNat 11 imm) (.plWrci pd i imm) hrun (.inr ⟨imm, rfl, himm, himmNat⟩)
  obtain ⟨t, hexec, hwritten, hothers, -, -, -, hstatus, -⟩ := hwrite (by omega)
  have hrun' : t.Running := by rw [State.Running, hstatus, hrun]
  have ⟨hvfy, _⟩ := rsVfyResult
  obtain ⟨u, hexec', -, -, -, -, hok, -, hresponses, -⟩ := hvfy t pd hrun'
  have hsubst : (t.poly pd).c = setCoefAt (s.poly pd).c i (BitVec.ofNat 11 imm) := by
    rw [eq_setCoefAt hi hothers, hwritten]
  have hrejected : statusOk u.status = false := by
    rw [Bool.eq_false_iff, Ne, hok, hsubst]
    refine not_codeword_setCoefAt hcode hi fun heq => hne ?_
    rw [heq, himmNat]
  refine ⟨t, u, hexec, hexec', hrejected, ?_⟩
  rw [hresponses, hrejected]
  rfl

end Sys2Proof.Proofs
end

section
/-! The bits of R140 by coefficient, and the cursor. The bits of coefficient `q` stand at the eleven offsets from 11 q
on, so where a written bit stands in its coefficient follows from `bitAt_bitsWrite`. -/

namespace Sys2Proof.Machine

/-- A bit of a coefficient is the bit at its offset (R42). -/
theorem bitAt_offsetOfBit (w : Coefs) (q : Nat) {b : Nat} (hb : b ≤ 10) :
    bitAt w (offsetOfBit q b) = (coefAt w q).getLsbD b := by
  rw [bitAt, coefOfBit_offsetOfBit, bitOfBit_offsetOfBit q hb]

/-- What is read is an unsigned number of as many bits as were read (R143). -/
theorem toNat_bitsRead_lt (w : Coefs) (pos : Nat) {n : Nat} (h : n ≤ 11) : (bitsRead w pos n).toNat < 2 ^ n := by
  apply Nat.lt_pow_two_of_testBit
  intro i hi
  rw [BitVec.testBit_toNat, getLsbD_bitsRead w pos n h, decide_eq_false (by omega), Bool.false_and]

theorem getLsbD_immElem (imm : Nat) {i : Nat} (hi : i < 11) : (immElem imm).getLsbD i = imm.testBit i := by
  rw [immElem, BitVec.getLsbD_ofNat, decide_eq_true hi, Bool.true_and]

/-- The cursor holds every offset up to 154 (R27). -/
theorem toNat_cursor {n : Nat} (h : n ≤ 154) : (BitVec.ofNat 8 n).toNat = n :=
  Nat.mod_eq_of_lt (by omega)

end Sys2Proof.Machine
end

section
/-! The chunked write of R140 and the commands of R141 to R143 behind the FAULTED test. -/

namespace Sys2Proof.Proofs

open Sys2Proof.Machine Sys2Proof.Claims

/-- Settles O50: the first chunk stands at the offsets `pos` to `pos + m - 1`, the second at `pos + m` to `pos + n - 1`,
and `bitAt_bitsWrite` says which bit of the value each offset has. -/
theorem bitsWriteIsTheChunkedWrite : Obligations.BitsWriteIsTheChunkedWrite := by
  unfold Obligations.BitsWriteIsTheChunkedWrite
  intro w pos n v hn hn11 hend _ r m q b hr hm hq hb
  have hb10 : b ≤ 10 := by omega
  have hoffset : offsetOfBit q b = 11 * q + (10 - b) := rfl
  rw [← bitAt_offsetOfBit _ q hb10, ← bitAt_offsetOfBit _ q hb10, bitAt_bitsWrite w pos n v hend]
  by_cases hfirst : q = pos / 11 ∧ r - m ≤ b ∧ b < r
  · have hindex : n - 1 - (offsetOfBit q b - pos) = n - m + (b - (r - m)) := by omega
    rw [if_pos hfirst, if_pos (by omega), hindex]
  · by_cases hsecond : q = pos / 11 + 1 ∧ m < n ∧ 11 - (n - m) ≤ b
    · have hindex : n - 1 - (offsetOfBit q b - pos) = b - (11 - (n - m)) := by omega
      rw [if_neg hfirst, if_pos hsecond, if_pos (by omega), hindex]
    · rw [if_neg hfirst, if_neg hsecond, if_neg (by omega)]

/-! ### The commands with their tests in the numbers of R64 and R65 -/

theorem exec_bfSeek (imm : Nat) (s : State) :
    exec (.bfSeek imm) s = .next (s.whenRunning
      (if imm ≤ 154 then (s.setBitpos imm).respond (BitVec.ofNat 16 imm) else s.raise .operand)) := by
  simp only [exec, execBfSeek, offsetLegal_eq, decide_eq_true_eq]

theorem exec_bfIns (pd : PReg) (len imm : Nat) (s : State) :
    exec (.bfIns pd len imm) s = .next (s.whenRunning
      (if len = 0 ∨ 11 < len then s.raise .operand
       else if 2 ^ len ≤ imm then s.raise .operand
       else if 154 < s.bitpos.toNat + len then s.raise .bitrange
       else ((s.setCoefs pd (bitsWrite (s.poly pd).c s.bitpos.toNat len (immElem imm))).setBitpos
          (s.bitpos.toNat + len)).respond (BitVec.ofNat 16 (s.bitpos.toNat + len)))) := by
  simp only [exec, execBfIns, lengthLegal_eq, valueFits, bitsInRange_eq, ← decide_not, decide_eq_true_eq, not_not,
    not_lt, not_le]

theorem exec_bfExt (rd : EReg) (pd : PReg) (len : Nat) (s : State) :
    exec (.bfExt rd pd len) s = .next (s.whenRunning
      (if len = 0 ∨ 11 < len then s.raise .operand
       else if 154 < s.bitpos.toNat + len then s.raise .bitrange
       else ((s.setElem rd (bitsRead (s.poly pd).c s.bitpos.toNat len)).setBitpos
          (s.bitpos.toNat + len)).respondElem (bitsRead (s.poly pd).c s.bitpos.toNat len))) := by
  simp only [exec, execBfExt, lengthLegal_eq, bitsInRange_eq, ← decide_not, decide_eq_true_eq, not_not, not_le]

/-- Settles O51: the offset test decides between the cursor and OPERAND. -/
theorem bfSeekResult : Obligations.BfSeekResult := by
  unfold Obligations.BfSeekResult
  refine ⟨fun s imm hrun => ⟨fun himm => ?seek, fun himm => ?fault⟩, by decide⟩
  case seek =>
    have hexec := exec_bfSeek imm s
    rw [if_pos himm] at hexec
    exact ⟨_, exec_of_running hrun hexec, toNat_cursor himm, rfl, rfl, rfl, rfl, rfl, rfl, rfl, rfl, rfl⟩
  case fault =>
    refine faultsWith_of_exec_eq .operand hrun ?_
    rw [exec_bfSeek, if_neg (by omega)]

/-- Settles O52: past the three tests the register's coefficients are those of `bitsWrite`, whose bits
`bitAt_bitsWrite` gives. -/
theorem bfInsResult : Obligations.BfInsResult := by
  unfold Obligations.BfInsResult
  refine ⟨fun s pd len imm hrun => ⟨fun hlen => ?length, fun hmin hmax hlarge => ?value,
    fun hmin hmax hfits hpast => ?range, fun hmin hmax hfits hend => ?insert⟩, by decide, by decide⟩
  case length =>
    refine faultsWith_of_exec_eq .operand hrun ?_
    rw [exec_bfIns, if_pos hlen]
  case value =>
    refine faultsWith_of_exec_eq .operand hrun ?_
    rw [exec_bfIns, if_neg (by omega), if_pos hlarge]
  case range =>
    refine faultsWith_of_exec_eq .bitrange hrun ?_
    rw [exec_bfIns, if_neg (by omega), if_neg (by omega), if_pos hpast]
  case insert =>
    have hexec := exec_bfIns pd len imm s
    rw [if_neg (by omega), if_neg (by omega), if_neg (by omega)] at hexec
    refine ⟨_, exec_of_running hrun hexec, ?bits, s.deg_setCoefs pd pd _,
      fun k hk => s.poly_setPoly_ne pd k _ hk, rfl, rfl, toNat_cursor hend, rfl, rfl, rfl, rfl, rfl, rfl⟩
    intro pos _
    rw [State.poly_respond, State.poly_setBitpos, State.poly_setCoefs_self, bitAt_bitsWrite _ _ _ _ hend,
      getLsbD_immElem imm (by omega)]

/-- Settles O53: past the two tests the value is that of `bitsRead`, whose bits `getLsbD_bitsRead` gives. -/
theorem bfExtResult : Obligations.BfExtResult := by
  unfold Obligations.BfExtResult
  refine ⟨fun s rd pd len hrun => ⟨fun hlen => ?length, fun hmin hmax hpast => ?range, fun hmin hmax hend => ?extract⟩,
    by decide, by decide⟩
  case length =>
    refine faultsWith_of_exec_eq .operand hrun ?_
    rw [exec_bfExt, if_pos hlen]
  case range =>
    refine faultsWith_of_exec_eq .bitrange hrun ?_
    rw [exec_bfExt, if_neg (by omega), if_pos hpast]
  case extract =>
    have hexec := exec_bfExt rd pd len s
    rw [if_neg (by omega), if_neg (by omega)] at hexec
    refine ⟨_, _, exec_of_running hrun hexec, toNat_bitsRead_lt _ _ hmax, ?bits,
      ⟨s.elem_setElem_self rd _, fun r hr => s.elem_setElem_ne rd r _ hr⟩, rfl, rfl, toNat_cursor hend, rfl,
      rfl, rfl, rfl, rfl, rfl⟩
    intro k hk
    have hindex : len - 1 - (len - 1 - k) = k := by omega
    rw [getLsbD_bitsRead _ _ _ hmax, decide_eq_true (by omega), Bool.true_and, hindex]

end Sys2Proof.Proofs
end

section
/-! The system commands of R150 to R152. A legal SYS.RDCR and SYS.RST stand before the FAULTED test, SYS.NOP and a
SYS.RDCR of a register that does not exist behind it. -/

namespace Sys2Proof.Machine

open Sys2Proof.Claims

/-- Reset gives every piece of the block's state its value of R33. -/
theorem State.atResetValues_resetBlock (s : State) : AtResetValues s.resetBlock := by
  have hpoly : ∀ k, s.resetBlock.poly k = PolyReg.empty := Fin.forall_fin_two.mpr ⟨rfl, rfl⟩
  refine ⟨fun r => Vector.getElem_replicate _, fun k => ?_, rfl, rfl, rfl, rfl, rfl, rfl⟩
  rw [hpoly]
  exact ⟨fun i _ => coefAt_replicate i, rfl⟩

/-- The reset STATUS has F = 0. -/
theorem State.running_resetBlock (s : State) : s.resetBlock.Running := by
  have hstatus : statusF State.reset.status = false := by decide
  exact hstatus

/-- A response is no part of the block. -/
theorem State.sameBlock_respond (s : State) (d : Half) : SameBlock s (s.respond d) :=
  ⟨rfl, rfl, rfl, rfl, rfl, rfl, rfl, rfl⟩

theorem State.answered_respond (s : State) (d : Half) : Answered s (s.respond d) d := ⟨rfl, rfl, rfl, rfl, rfl, rfl⟩

/-- The control registers in the order of their numbers; no other number is read (R151). -/
theorem State.control_eq_getD (s : State) :
    ∀ idx, s.control idx = [s.status, s.bitpos.setWidth 16, s.cfg0, s.cfg1, s.cfg2].getD idx 0
  | 0 | 1 | 2 | 3 | 4 | _ + 5 => rfl

end Sys2Proof.Machine

namespace Sys2Proof.Proofs

open Sys2Proof.Machine Sys2Proof.Claims

/-- A command behind the FAULTED test is refused in the FAULTED state and changes nothing (R170). -/
theorem refused_of_exec_eq {i : Instr} {s k : State} (hfaulted : s.Faulted)
    (hexec : exec i s = .next (s.whenRunning k)) :
    ∃ t, exec i s = .next t ∧ SameBlock s t ∧ t.port = s.port ∧ t.responses = s.responses ++ [0x8F000000#32] := by
  rw [s.whenRunning_of_faulted k hfaulted] at hexec
  exact ⟨_, hexec, s.sameBlock_refuse, rfl, rfl⟩

/-- A control register that exists is answered in both states. -/
theorem exec_sysRdcr_of_le {idx : Nat} (s : State) (hidx : idx ≤ 4) :
    exec (.sysRdcr idx) s = .next (s.respond (s.control idx)) := by
  simp [exec, execSysRdcr, controlIndexLegal, hidx]

theorem exec_sysRdcr_of_lt {idx : Nat} (s : State) (hidx : 4 < idx) :
    exec (.sysRdcr idx) s = .next (s.whenRunning (s.raise .operand)) := by
  simp [exec, execSysRdcr, controlIndexLegal, Nat.not_le.mpr hidx]

/-- Settles O24: the FAULTED test stands before SYS.NOP and before the fault of SYS.RDCR, but not before its answer. -/
theorem sysNopAndRdcrResults : Obligations.SysNopAndRdcrResults := by
  unfold Obligations.SysNopAndRdcrResults
  refine ⟨?nop, ?nopRefused, ?rdcr, ?rdcrFault, ?rdcrRefused⟩
  case nop => exact fun s hrun => ⟨_, exec_of_running hrun rfl, s.sameBlock_respond 0, s.answered_respond 0⟩
  case nopRefused => exact fun s hfaulted => refused_of_exec_eq hfaulted rfl
  case rdcr =>
    intro s idx hidx
    rw [← s.control_eq_getD]
    exact ⟨_, exec_sysRdcr_of_le s hidx, s.sameBlock_respond _, s.answered_respond _⟩
  case rdcrFault => exact fun s idx hidx hrun => faultsWith_of_exec_eq .operand hrun (exec_sysRdcr_of_lt s hidx)
  case rdcrRefused => exact fun s idx hidx hfaulted => refused_of_exec_eq hfaulted (exec_sysRdcr_of_lt s hidx)

/-- Settles O25: SYS.RST resets the block without a FAULTED test, and the response 0 is no part of the block. -/
theorem sysRstResetsEverything : Obligations.SysRstResetsEverything := by
  unfold Obligations.SysRstResetsEverything
  exact ⟨by decide, fun s => ⟨_, rfl, s.atResetValues_resetBlock, s.running_resetBlock, rfl, rfl⟩⟩

end Sys2Proof.Proofs
end

section
/-! Words the RUNNING state faults on and the FAULTED state refuses (R161, R170). What a word decodes to is what its
row's match and mask say (O9), and of the commands only SYS.RST and a SYS.RDCR of an existing register stand before the
FAULTED test. -/

namespace Sys2Proof.Machine

/-- A presented word that decodes runs its command. -/
theorem step_of_decode_ok {s : State} {w : Word} {rest : List PortEvent} {i : Instr}
    (hport : s.port = .command w :: rest) (hdec : decode w = .ok i) : step s = exec i { s with port := rest } := by
  simp [step, State.takeEvent, hport, hdec]

/-- A presented word that does not decode is rejected. -/
theorem step_of_decode_error {s : State} {w : Word} {rest : List PortEvent} {d : DecodeError}
    (hport : s.port = .command w :: rest) (hdec : decode w = .error d) :
    step s = .next { s with port := rest }.rejectWord := by
  simp [step, State.takeEvent, hport, hdec]

end Sys2Proof.Machine

namespace Sys2Proof.Proofs

open Sys2Proof.Machine Sys2Proof.Claims

/-- A word is rejected by the decoder iff it matches no row of the table. -/
theorem exists_decode_error_iff (w : Word) : (∃ d, decode w = .error d) ↔ ∀ row ∈ opcodeTable, ¬ Matches w row := by
  obtain ⟨-, herror, -⟩ := decodeFollowsMatchAndMask w
  exact herror

/-- The four examples of R161, two with an opcode of no row and two with a bit in an unused field. -/
theorem exists_decode_error_of_mem_examples :
    ∀ w ∈ [0xFC000000#32, 0x0C000000#32, 0x00000001#32, 0x20820005#32], ∃ d, decode w = .error d := by
  simp only [List.forall_mem_cons, List.not_mem_nil, false_implies, implies_true, and_true]
  exact ⟨⟨.unassignedOpcode 0x3F, by decide⟩, ⟨.unassignedOpcode 0x03, by decide⟩,
    ⟨.unusedFieldNonzero 0x00, by decide⟩, ⟨.unusedFieldNonzero 0x08, by decide⟩⟩

/-- Settles O13: such a word does not decode, and a word that does not decode raises ILLEGAL in the RUNNING state. -/
theorem illegalWordRaisesIllegal : Obligations.IllegalWordRaisesIllegal := by
  unfold Obligations.IllegalWordRaisesIllegal
  refine ⟨fun s w rest hport hrun hnone => ?raises, ?words⟩
  case raises =>
    obtain ⟨d, hdec⟩ := (exists_decode_error_iff w).mpr hnone
    have hreject : { s with port := rest }.rejectWord = { s with port := rest }.raise .illegal :=
      State.whenRunning_of_running _ _ hrun
    exact ⟨_, step_of_decode_error hport hdec, hreject ▸ State.faultsWith_raise _ .illegal⟩
  case words => exact fun w hw => (exists_decode_error_iff w).mp (exists_decode_error_of_mem_examples w hw)

/-! ### The two commands that stand before the FAULTED test -/

/-- A word decodes to a command iff it matches the command's row and carries the command's operands. -/
theorem decode_eq_ok_iff {w : Word} {row : Nat × List Field} (hrow : row ∈ commandFields) {i j : Instr}
    (hj : j.opcode = row.1) (hdec : opcodeOf w = row.1 → decode w = decodeRow w row.2 i) :
    decode w = .ok j ↔ Matches w (matchAndMask row) ∧ i = j := by
  rw [matches_matchAndMask_iff w hrow]
  constructor
  · intro hok
    obtain ⟨row', -, hopc', hj', -⟩ := row_of_decode_eq_ok hok
    have hopc : opcodeOf w = row.1 := hopc'.trans (hj'.symm.trans hj)
    obtain ⟨hzero, hij⟩ := (decodeRow_eq_ok_iff ..).mp ((hdec hopc).symm.trans hok)
    exact ⟨⟨hzero, hopc⟩, hij⟩
  · rintro ⟨⟨hzero, hopc⟩, hij⟩
    exact (hdec hopc).trans ((decodeRow_eq_ok_iff ..).mpr ⟨hzero, hij⟩)

/-- SYS.RST has one word. -/
theorem decode_eq_sysRst_iff (w : Word) : decode w = .ok .sysRst ↔ w = 0x08000000#32 := by
  have hrow : matchAndMask (0x02, []) = (0x02, 0x08000000#32, BitVec.allOnes 32) := by decide
  have hdec (hopc : opcodeOf w = 0x02) : decode w = decodeRow w [] .sysRst := by
    rw [decode, hopc]
    rfl
  rw [decode_eq_ok_iff (row := (0x02, [])) (by decide) rfl hdec, hrow, Matches, BitVec.and_allOnes]
  exact and_iff_left rfl

/-- A word of SYS.RDCR names the control register in its bits 14:11. -/
theorem decode_eq_sysRdcr_iff (w : Word) (idx : Nat) :
    decode w = .ok (.sysRdcr idx) ↔ w &&& 0xFFFF87FF#32 = 0x04000000#32 ∧ (w.extractLsb' 11 4).toNat = idx := by
  have hrow : matchAndMask (0x01, [.idx]) = (0x01, 0x04000000#32, 0xFFFF87FF#32) := by decide
  have hidx : fieldOf w .idx = (w.extractLsb' 11 4).toNat := by
    rw [BitVec.extractLsb'_toNat, Nat.shiftRight_eq_div_pow]
    rfl
  have hdec (hopc : opcodeOf w = 0x01) : decode w = decodeRow w [.idx] (.sysRdcr (fieldOf w .idx)) := by
    rw [decode, hopc]
    rfl
  rw [decode_eq_ok_iff (row := (0x01, [.idx])) (by decide) rfl hdec, hrow, hidx, Instr.sysRdcr.injEq]
  rfl

/-- Every other command stands behind the FAULTED test (R168). -/
theorem exec_eq_whenRunning {i : Instr} (s : State) (hrst : i ≠ .sysRst) (hrdcr : ∀ idx, i = .sysRdcr idx → 4 < idx) :
    ∃ k, exec i s = .next (s.whenRunning k) := by
  cases i with
  | sysRst => exact absurd rfl hrst
  | sysRdcr idx => exact ⟨_, exec_sysRdcr_of_lt s (hrdcr idx rfl)⟩
  | _ => exact ⟨_, rfl⟩

/-- Settles O14: the two words of R170 are those of the two commands before the FAULTED test; a word of any other
command is refused by that test, and so is one that does not decode. -/
theorem faultedBlockRefuses : Obligations.FaultedBlockRefuses := by
  unfold Obligations.FaultedBlockRefuses
  intro s w rest hport hfaulted
  refine ⟨fun hrst => ?reset, fun hreads => ?read, fun hrst hreads => ?refuse⟩
  case reset =>
    rw [step_of_decode_ok hport ((decode_eq_sysRst_iff w).mpr hrst)]
    exact ⟨_, rfl, State.atResetValues_resetBlock { s with port := rest }, rfl, rfl⟩
  case read =>
    obtain ⟨hmatch, hidx⟩ := hreads
    rw [step_of_decode_ok hport ((decode_eq_sysRdcr_iff w _).mpr ⟨hmatch, rfl⟩), exec_sysRdcr_of_le _ hidx]
    exact ⟨_, rfl, State.sameBlock_respond { s with port := rest } _, rfl, rfl⟩
  case refuse =>
    cases hdec : decode w with
    | error d =>
      have hreject : { s with port := rest }.rejectWord = { s with port := rest }.refuse :=
        State.whenRunning_of_faulted _ _ hfaulted
      exact ⟨_, step_of_decode_error hport hdec, hreject ▸ State.sameBlock_refuse { s with port := rest },
        hreject ▸ rfl, hreject ▸ rfl⟩
    | ok i =>
      rw [step_of_decode_ok hport hdec]
      have hnotRst : i ≠ .sysRst := by
        rintro rfl
        exact hrst ((decode_eq_sysRst_iff w).mp hdec)
      have hnotRdcr (idx : Nat) (hi : i = .sysRdcr idx) : 4 < idx := by
        obtain ⟨hmatch, hidx⟩ := (decode_eq_sysRdcr_iff w idx).mp (hi ▸ hdec)
        exact hidx ▸ Nat.lt_of_not_le fun hle => hreads ⟨hmatch, hle⟩
      obtain ⟨k, hexec⟩ := exec_eq_whenRunning { s with port := rest } hnotRst hnotRdcr
      exact refused_of_exec_eq hfaulted hexec

end Sys2Proof.Proofs
end

section
/-! The faults of R162 to R166. `EndsAsExpected` says of the state a command leaves behind that it is fault entry with
the expected code, or an execution when no fault is expected; a command's tests keep it one by one, because each is a
test of `expectedFault` in the model's words and in the same order (O15). -/

namespace Sys2Proof.Proofs

open Sys2Proof.Machine Sys2Proof.Claims

/-- `t` is the state after a command that `s` has executed: RUNNING, and answered with F = 0 (R66). -/
def Executed (s t : State) : Prop :=
  t.Running ∧ t.port = s.port ∧ ∃ data : Half, t.responses = s.responses ++ [BitVec.setWidth 32 data]

/-- `t` is what the expectation says: fault entry with the code, or an execution when there is none. -/
def EndsAsExpected (s t : State) : Option Nat → Prop
  | some c => FaultsWith s t c
  | none => Executed s t

namespace EndsAsExpected
variable {s k : State} {expected : Option Nat} {c c' : Prop} [Decidable c] [Decidable c']

/-- The shape of an execution where no fault is expected; its two equations hold by computation. -/
theorem executed {t : State} {data : Half} (hrun : t.Running) (hport : t.port = s.port)
    (hresponses : t.responses = s.responses ++ [BitVec.setWidth 32 data]) : EndsAsExpected s t none :=
  ⟨hrun, hport, data, hresponses⟩

/-- A test that raises a fault, where the same fault is expected. -/
theorem raise_ite (f : FaultCode) (htest : c ↔ c') (h : EndsAsExpected s k expected) :
    EndsAsExpected s (if c then s.raise f else k) (if c' then some f.code.toNat else expected) := by
  by_cases hc : c
  · rw [if_pos hc, if_pos (htest.mp hc)]
    exact s.faultsWith_raise f
  · rw [if_neg hc, if_neg (htest.not.mp hc)]
    exact h

/-- The same with the command's branches the other way round. -/
theorem ite_raise (f : FaultCode) (htest : ¬ c ↔ c') (h : EndsAsExpected s k expected) :
    EndsAsExpected s (if c then k else s.raise f) (if c' then some f.code.toNat else expected) := by
  rw [← ite_not]
  exact raise_ite f htest h

theorem writeCoef (hrun : s.Running) (pd : PReg) (idx : Nat) (v : Elem) :
    EndsAsExpected s (s.writeCoef pd idx v) (if 13 < idx then some 2 else none) := by
  obtain ⟨hidx, hwrite⟩ | ⟨hidx, hraise⟩ := s.writeCoef_cases pd idx v
  · rw [hwrite, if_neg (by omega)]
    exact executed hrun rfl rfl
  · rw [hraise, if_pos (show 13 < idx from hidx)]
    exact s.faultsWith_raise .operand

end EndsAsExpected

/-! ### The operand tests in the numbers of the rules -/

theorem not_controlIndexLegal_iff (idx : Nat) : ¬ controlIndexLegal idx = true ↔ 4 < idx := by
  rw [controlIndexLegal, decide_eq_true_eq, Nat.not_le]

theorem not_coefIndexLegal_iff (idx : Nat) : ¬ coefIndexLegal idx = true ↔ 13 < idx := by
  rw [coefIndexLegal_eq, decide_eq_true_eq, Nat.not_lt, Nat.succ_le_iff]

theorem not_genIndexLegal_iff (idx : Nat) : ¬ genIndexLegal idx = true ↔ 1 < idx := by
  rw [genIndexLegal_eq, decide_eq_true_eq, Nat.not_le]

/-- An immediate that is a degree code stands for a degree, and no other does (R67). -/
theorem degreeOfImm_cases (imm : Nat) :
    ((imm ≤ 13 ∨ imm = 31) ∧ ∃ d, degreeOfImm imm = some d) ∨ (¬ (imm ≤ 13 ∨ imm = 31) ∧ degreeOfImm imm = none) := by
  rw [degreeOfImm_eq]
  by_cases hlow : imm < 14
  · exact .inl ⟨.inl (by omega), _, if_pos hlow⟩
  · by_cases h31 : imm = 31
    · exact .inl ⟨.inr h31, _, by rw [if_neg hlow, if_pos h31]⟩
    · exact .inr ⟨by omega, by rw [if_neg hlow, if_neg h31]⟩

/-! ### Every command -/

/-- In the RUNNING state every command faults as expected, or is executed where no fault is expected. -/
theorem exec_endsAsExpected (i : Instr) {s : State} (hrun : s.Running) :
    ∃ t, exec i s = .next t ∧ EndsAsExpected s t (expectedFault i s) := by
  open EndsAsExpected in
  cases i with
  | sysRst => exact ⟨_, rfl, executed s.running_resetBlock rfl rfl⟩
  | sysRdcr idx =>
    refine ⟨_, rfl, ?_⟩
    rw [s.whenRunning_of_running _ hrun]
    exact ite_raise .operand (not_controlIndexLegal_iff idx) (executed hrun rfl rfl)
  | gfEq =>
    exact ⟨_, exec_of_running hrun rfl, executed ((statusF_withEq ..).trans hrun) rfl rfl⟩
  | rsVfy =>
    exact ⟨_, exec_of_running hrun rfl, executed ((statusF_withOk ..).trans hrun) rfl rfl⟩
  | gfInv =>
    exact ⟨_, exec_of_running hrun rfl, raise_ite .invzero Iff.rfl (executed hrun rfl rfl)⟩
  | plRdc rd pd idx =>
    exact ⟨_, exec_of_running hrun rfl, ite_raise .operand (not_coefIndexLegal_iff idx) (executed hrun rfl rfl)⟩
  | plWrc | plWrci => exact ⟨_, exec_of_running hrun rfl, writeCoef hrun _ _ _⟩
  | plWrdeg pd imm =>
    refine ⟨_, exec_of_running hrun rfl, ?_⟩
    rw [expectedFault]
    obtain ⟨hcode, d, hdegree⟩ | ⟨hcode, hdegree⟩ := degreeOfImm_cases imm
    · rw [hdegree, if_pos hcode]
      exact executed hrun rfl rfl
    · rw [hdegree, if_neg hcode]
      exact s.faultsWith_raise .operand
  | plMulxa pd ra =>
    exact ⟨_, exec_of_running hrun (exec_plMulxa pd ra s), raise_ite .polyovf Iff.rfl (executed hrun rfl rfl)⟩
  | rsEnc pd =>
    exact ⟨_, exec_of_running hrun rfl, raise_ite .encpre (checkOccupied_hw (s.poly pd).c) (executed hrun rfl rfl)⟩
  | rsCor rd pd idx =>
    refine ⟨_, exec_of_running hrun rfl, ite_raise .operand (not_coefIndexLegal_iff idx) ?_⟩
    split
    · exact executed ((statusF_withOk ..).trans hrun) rfl rfl
    · exact executed ((statusF_withOk ..).trans hrun) rfl rfl
  | rsGen rd idx =>
    exact ⟨_, exec_of_running hrun rfl, ite_raise .operand (not_genIndexLegal_iff idx) (executed hrun rfl rfl)⟩
  | bfSeek imm =>
    exact ⟨_, exec_of_running hrun (exec_bfSeek imm s), ite_raise .operand Nat.not_le (executed hrun rfl rfl)⟩
  | bfIns pd len imm =>
    refine ⟨_, exec_of_running hrun (exec_bfIns pd len imm s), ?_⟩
    refine raise_ite .operand Iff.rfl (raise_ite .operand Iff.rfl (raise_ite .bitrange Iff.rfl ?_))
    exact executed hrun rfl rfl
  | bfExt rd pd len =>
    refine ⟨_, exec_of_running hrun (exec_bfExt rd pd len s), ?_⟩
    exact raise_ite .operand Iff.rfl (raise_ite .bitrange Iff.rfl (executed hrun rfl rfl))
  | _ => exact ⟨_, exec_of_running hrun rfl, executed hrun rfl rfl⟩

/-- Settles O15: fault entry is `raise`, and the one state of `exec_endsAsExpected` is the one the expectation names. -/
theorem commandsFaultExactlyAsListed : Obligations.CommandsFaultExactlyAsListed := by
  unfold Obligations.CommandsFaultExactlyAsListed
  refine ⟨State.faultsWith_raise, fun i s hrun => ?_⟩
  obtain ⟨t, hexec, hends⟩ := exec_endsAsExpected i hrun
  refine ⟨fun c hfault => ⟨t, hexec, ?faults⟩, fun hnone => ?executes⟩
  case faults =>
    rw [hfault] at hends
    exact hends
  case executes =>
    rw [hnone] at hends
    obtain ⟨hrun', hport, data, hresponses⟩ := hends
    exact ⟨t, data, hexec, hrun', hport, hresponses⟩

end Sys2Proof.Proofs
end

section
/-! Encoding and decoding (R61, R62, R72). A word is its opcode and its seven fields, so what it decodes to is settled by
two equations: the command's opcode and operands are those of the word. Decoding undoes encoding (O7) because an encoded
word has its command's opcode and operands, and encoding undoes decoding (O8) because packing a word's own opcode and
operands gives the word back. -/

namespace Sys2Proof

/-! ### The operands of a word -/

/-- What stands in the fields of a word (R61). -/
def operandsOf (w : Word) : Operands where
  rd := fieldOf w .rd
  ra := fieldOf w .ra
  rb := fieldOf w .rb
  pd := fieldOf w .pd
  ps := fieldOf w .ps
  idx := fieldOf w .idx
  imm := fieldOf w .imm

theorem fieldOf_lt (w : Word) (f : Field) : fieldOf w f < 2 ^ f.place.2 := Nat.mod_lt _ (Nat.two_pow_pos _)

/-- OPC and the seven fields are all of the word. -/
theorem packWord_operandsOf (w : Word) : packWord (opcodeOf w) (operandsOf w) = w := by
  apply BitVec.eq_of_toNat_eq
  have hw : w.toNat < 2 ^ 32 := w.isLt
  simp only [packWord, operandsOf, opcodeOf, fieldOf, wordBits, Field.place, BitVec.toNat_ofNat]
  omega

/-! A register number read from its field is the number that stands there: every value is one (R65). -/

@[simp] theorem val_eregOf_rd (w : Word) : (eregOf w .rd : Nat) = fieldOf w .rd := Nat.mod_eq_of_lt (fieldOf_lt w .rd)
@[simp] theorem val_eregOf_ra (w : Word) : (eregOf w .ra : Nat) = fieldOf w .ra := Nat.mod_eq_of_lt (fieldOf_lt w .ra)
@[simp] theorem val_eregOf_rb (w : Word) : (eregOf w .rb : Nat) = fieldOf w .rb := Nat.mod_eq_of_lt (fieldOf_lt w .rb)
@[simp] theorem val_pregOf_pd (w : Word) : (pregOf w .pd : Nat) = fieldOf w .pd := Nat.mod_eq_of_lt (fieldOf_lt w .pd)
@[simp] theorem val_pregOf_ps (w : Word) : (pregOf w .ps : Nat) = fieldOf w .ps := Nat.mod_eq_of_lt (fieldOf_lt w .ps)

/-! ### The decoder in terms of opcode and operands -/

/-- What a word decodes to has the word's operands: each used field is read, each unused one is zero. -/
theorem operandsOf_of_decode_eq_ok {w : Word} {i : Instr} (h : decode w = .ok i) : operandsOf w = i.operands := by
  unfold decode at h
  split at h
  case h_28 => cases h
  all_goals
    obtain ⟨hzero, rfl⟩ := (decodeRow_eq_ok_iff ..).mp h
    simp [unusedZero_iff, unusedFields, Field.all] at hzero
    simp [operandsOf, Instr.operands, hzero]

/-- A command is decoded from every word that has its opcode and operands. -/
theorem decode_eq_ok_of_operands {w : Word} {i : Instr} (hopcode : opcodeOf w = i.opcode)
    (hoperands : operandsOf w = i.operands) : decode w = .ok i := by
  obtain ⟨hrd, hra, hrb, hpd, hps, hidx, himm⟩ := Operands.mk.inj hoperands
  cases i
  all_goals
    simp only [Instr.opcode] at hopcode hrd hra hrb hpd hps hidx himm
    simp [decode, decodeRow_eq_ok_iff, unusedZero_iff, unusedFields, Field.all, Fin.ext_iff, *]

theorem decode_eq_ok_iff_operands (w : Word) (i : Instr) :
    decode w = .ok i ↔ opcodeOf w = i.opcode ∧ operandsOf w = i.operands := by
  refine ⟨fun h => ⟨?_, operandsOf_of_decode_eq_ok h⟩, fun ⟨hopcode, hoperands⟩ =>
    decode_eq_ok_of_operands hopcode hoperands⟩
  obtain ⟨row, -, hopc, hi, -⟩ := row_of_decode_eq_ok h
  exact hopc.trans hi.symm

/-! ### The encoder in terms of opcode and operands -/

/-- A term is one that a word spells when its IDX and IMM fit their fields. -/
theorem wellFormed_iff (i : Instr) : WellFormed i = true ↔ i.operands.idx < 16 ∧ i.operands.imm < 2048 := by
  cases i <;> simp [WellFormed, Instr.operands]

/-- Encoding puts the opcode into OPC and each operand into its field, whatever the command. -/
theorem encodedFields (i : Instr) : Laws.EncodedFields.Statement i := by
  open Laws.EncodedFields in
  cases i with
  | sysNop => exact sysNop
  | sysRdcr => exact sysRdcr _
  | sysRst => exact sysRst
  | gfLdi => exact gfLdi _ _
  | gfMov => exact gfMov _ _
  | gfAdd => exact gfAdd _ _ _
  | gfMul => exact gfMul _ _ _
  | gfInv => exact gfInv _ _
  | gfPow => exact gfPow _ _ _
  | gfEq => exact gfEq _ _
  | plClr => exact plClr _
  | plRdc => exact plRdc _ _ _
  | plWrc => exact plWrc _ _ _
  | plWrci => exact plWrci _ _ _
  | plRddeg => exact plRddeg _
  | plWrdeg => exact plWrdeg _ _
  | plSetdeg => exact plSetdeg _
  | plEval => exact plEval _ _ _
  | plMulxa => exact plMulxa _ _
  | plAdd => exact plAdd _ _
  | rsEnc => exact rsEnc _
  | rsVfy => exact rsVfy _
  | rsCor => exact rsCor _ _ _
  | rsGen => exact rsGen _ _
  | bfSeek => exact bfSeek _
  | bfIns => exact bfIns _ _ _
  | bfExt => exact bfExt _ _ _

theorem operandsOf_encode {i : Instr} (hwf : WellFormed i = true) : operandsOf (encode i) = i.operands := by
  obtain ⟨-, hrd, hra, hrb, hpd, hps, hidx, himm⟩ := encodedFields i hwf
  rw [operandsOf, hrd, hra, hrb, hpd, hps, hidx, himm]

end Sys2Proof

namespace Sys2Proof.Proofs

/-- Settles O7: an encoded word has its command's opcode and operands. -/
theorem decodeUndoesEncode : Obligations.DecodeUndoesEncode := by
  unfold Obligations.DecodeUndoesEncode
  intro i hwf
  obtain ⟨hopcode, -⟩ := encodedFields i hwf
  exact (decode_eq_ok_iff_operands _ i).mpr ⟨hopcode, operandsOf_encode hwf⟩

/-- Settles O8: the command has the word's opcode and operands, which fit their fields and make up the word. -/
theorem encodeUndoesDecode : Obligations.EncodeUndoesDecode := by
  unfold Obligations.EncodeUndoesDecode
  intro w i hdec
  obtain ⟨hopcode, hoperands⟩ := (decode_eq_ok_iff_operands w i).mp hdec
  constructor
  · rw [wellFormed_iff, ← hoperands]
    exact ⟨fieldOf_lt w .idx, fieldOf_lt w .imm⟩
  · rw [encode, ← hopcode, ← hoperands, packWord_operandsOf]

/-- Settles O10: each word, a closed term, is run through the decoder. -/
theorem specWordsDecode : Obligations.SpecWordsDecode := by
  unfold Obligations.SpecWordsDecode
  exact ⟨by decide, by decide, by decide, by decide, by decide, by decide, by decide⟩

end Sys2Proof.Proofs
end

section
/-! The second forms of the arithmetic: the exponent reduced modulo the order of the group (R84), Horner's scheme as the
sum of c[i] x^i (R101, R123), and the direct solve of R131, which at the root 1 is the xor of the other symbols and so
what the scan finds. -/

namespace Sys2Proof.Machine

open Sys2Proof.Claims

/-- The powers of a nonzero element repeat after 2047 (R84). -/
theorem gfPow_mod_2047 {a : Elem} (ha : a ≠ 0) (n : Nat) : gfPow a n = gfPow a (n % 2047) := by
  calc gfPow a n = gfPow a (2047 * (n / 2047) + n % 2047) := by rw [Nat.div_add_mod]
    _ = gfMul (gfPow (gfPow a 2047) (n / 2047)) (gfPow a (n % 2047)) := by rw [gfPow_add, gfPow_mul]
    _ = gfPow a (n % 2047) := by rw [gfPow_2047 ha, one_gfPow, one_gfMul]

/-! ### Horner's scheme as a sum -/

/-- The value at `x` of the terms below position `n`. -/
def polySum (w : Coefs) (x : Elem) (n : Nat) : Elem := gfSum (fun i => gfMul (coefAt w i) (gfPow x i)) n

/-- The rounds at positions below `n` multiply what came before by x^n and add their own terms. -/
theorem hornerFrom_eq_polySum (w : Coefs) (x : Elem) (n : Nat) (acc : Elem) :
    hornerFrom w x n acc = gfMul acc (gfPow x n) ^^^ polySum w x n := by
  induction n generalizing acc with
  | zero => rw [hornerFrom, gfPow, gfMul_one, polySum, gfSum, BitVec.ofNat_eq_ofNat, BitVec.xor_zero]
  | succ n ih =>
    calc hornerFrom w x (n + 1) acc
        = gfMul (gfMul acc x ^^^ coefAt w n) (gfPow x n) ^^^ polySum w x n := ih _
      _ = gfMul acc (gfPow x (n + 1)) ^^^ (gfMul (coefAt w n) (gfPow x n) ^^^ polySum w x n) := by
        rw [xor_gfMul, gfMul_assoc, BitVec.xor_assoc, gfPow]
      _ = gfMul acc (gfPow x (n + 1)) ^^^ polySum w x (n + 1) := by
        rw [BitVec.xor_comm (gfMul (coefAt w n) _)]
        rfl

theorem hornerFrom_zero_eq_polySum (w : Coefs) (x : Elem) (n : Nat) : hornerFrom w x n 0 = polySum w x n := by
  rw [hornerFrom_eq_polySum, zero_gfMul, BitVec.ofNat_eq_ofNat, BitVec.zero_xor]

theorem horner_eq_polySum (q : PolyReg) (x : Elem) : horner q x = polySum q.c x (q.deg + 1).toNat :=
  hornerFrom_zero_eq_polySum ..

theorem wordEval_eq_polySum (w : Coefs) (x : Elem) : wordEval w x = polySum w x 14 := hornerFrom_zero_eq_polySum ..

/-- Above the degree of a normalised register there is no coefficient. -/
theorem coefAt_eq_zero_of_deg_lt {q : PolyReg} (hnorm : Normalised q) {i : Nat} (hi : q.deg < i) : coefAt q.c i = 0 := by
  obtain ⟨habove, -⟩ := hnorm
  rcases Nat.lt_or_ge i 14 with hlt | hge
  · exact habove i hlt hi
  · exact coefAt_of_ge _ _ hge

/-- So the terms above the degree of a normalised register do not count (R123). -/
theorem wordEval_eq_horner_of_normalised {q : PolyReg} (hnorm : Normalised q) (x : Elem) :
    wordEval q.c x = horner q x := by
  have hbound : (q.deg + 1).toNat ≤ 14 := by
    obtain ⟨-, hdeg | ⟨-, hdeg, -⟩⟩ := hnorm <;> omega
  rw [wordEval_eq_polySum, horner_eq_polySum]
  refine gfSum_eq_of_zero_from hbound fun i hi => ?_
  rw [coefAt_eq_zero_of_deg_lt hnorm (by omega), zero_gfMul]

theorem wordEval_eq_horner_of_deg_eq {q : PolyReg} (hdeg : q.deg = 13) (x : Elem) : wordEval q.c x = horner q x := by
  rw [horner, hdeg]
  rfl

/-! ### The direct solve -/

theorem foldl_range_gfAdd_eq_gfSum (f : Nat → Elem) (n : Nat) :
    (List.range n).foldl (fun s i => gfAdd s (f i)) 0 = gfSum f n := by
  induction n with
  | zero => rfl
  | succ n ih => rw [List.range_succ, List.foldl_append, ih, List.foldl_cons, List.foldl_nil, gfSum]

/-- Positions left out of a sum are terms of zero. -/
theorem foldl_filter_gfAdd_eq_gfSum (f : Nat → Elem) (keep : Nat → Bool) (n : Nat) :
    ((List.range n).filter keep).foldl (fun s i => gfAdd s (f i)) 0 = gfSum (fun i => if keep i then f i else 0) n := by
  have hterm (s : Elem) (i : Nat) : (if keep i then gfAdd s (f i) else s) = gfAdd s (if keep i then f i else 0) := by
    split
    case isTrue => rfl
    case isFalse => exact BitVec.xor_zero.symm
  rw [List.foldl_filter, ← foldl_range_gfAdd_eq_gfSum]
  simp only [hterm]

theorem gfInv_one : gfInv 1 = 1 := by rw [gfInv_eq_gfPow, one_gfPow]

/-- Every power of the root 1 is 1, so the direct solve divides by nothing (R131). -/
theorem directSolve_root (w : Coefs) (epos : Nat) : directSolve (rootOf Config.hw 0) w epos = xorOthers w epos := by
  simp only [directSolve, rootOf_hw_zero, one_gfPow, gfInv_one, gfMul_one]
  exact foldl_filter_gfAdd_eq_gfSum ..

end Sys2Proof.Machine

namespace Sys2Proof.Proofs

open Sys2Proof.Machine

/-- Settles O3, from the loop of square and multiply and the order of the group. -/
theorem squareAndMultiplyIsTheNFoldProduct : Obligations.SquareAndMultiplyIsTheNFoldProduct := by
  unfold Obligations.SquareAndMultiplyIsTheNFoldProduct
  exact ⟨fun _ => zero_gfPow, fun a _ => gfPowFast_eq_gfPow a, fun _ n ha => gfPow_mod_2047 ha n⟩

/-- Settles O36: the rounds of Horner's scheme from the degree down, as a sum. -/
theorem hornerIsThePolynomialSum : Obligations.HornerIsThePolynomialSum := by
  unfold Obligations.HornerIsThePolynomialSum
  exact fun q x _ => horner_eq_polySum q x

/-- Settles O40: the sums differ in terms above the degree, and at 1 the word is evaluated at the root of the code. -/
theorem wordEvalAgreesWithHorner : Obligations.WordEvalAgreesWithHorner := by
  unfold Obligations.WordEvalAgreesWithHorner
  refine ⟨fun q x hq => ?_, wordEval_root⟩
  rcases hq with hdeg | hnorm
  · exact wordEval_eq_horner_of_deg_eq hdeg x
  · exact wordEval_eq_horner_of_normalised hnorm x

/-- Settles O44: the scan and the direct solve both answer the xor of the other symbols. -/
theorem scanEqualsDirectSolve : Obligations.ScanEqualsDirectSolve := by
  unfold Obligations.ScanEqualsDirectSolve
  intro w epos hepos
  rw [directSolve_root, rootOf_hw_zero, one_gfPow]
  exact ⟨by decide, correctErasure_hw w hepos,
    fun v => (isCodeword_iff _).trans (codeword_setCoefAt_iff w hepos v), rfl⟩

end Sys2Proof.Proofs
end

section
/-! Runs of two commands: an overwritten symbol restored (R131), an encoded word verified (R125, R126) and a value read
back from where it was inserted (R145). RS.ENC writes position 0 alone, which holds the offsets 0 to 10, so the payload
above stays. -/

namespace Sys2Proof.Machine

open Sys2Proof.Claims

@[simp] theorem State.elem_respond (s : State) (d : Half) (r : EReg) : (s.respond d).elem r = s.elem r := rfl

/-- Completing a word does not look at the symbol that it replaces. -/
theorem completeAt_setCoefAt (w : Coefs) {i : Nat} (hi : i < 14) (v : Elem) :
    completeAt (setCoefAt w i v) i = completeAt w i := by
  have hothers (j : Nat) (hj : j ≠ i) : coefAt (completeAt (setCoefAt w i v) i) j = coefAt w j := by
    rw [coefAt_completeAt_ne _ hj, coefAt_setCoefAt_ne w i j v hj.symm]
  rw [eq_setCoefAt hi hothers, coefAt_completeAt_self _ hi, xorOthers_setCoefAt, completeAt]

/-- A codeword is complete in every position. -/
theorem completeAt_of_codeword {w : Coefs} (hw : Codeword w) {i : Nat} (hi : i < 14) : completeAt w i = w := by
  rw [completeAt, ← (codeword_iff w hi).mp hw]
  exact (eq_setCoefAt hi fun _ _ => rfl).symm

/-- Coefficient 0 holds the offsets 0 to 10, so a write there changes no other bit (R42). -/
theorem bitAt_setCoefAt_zero (w : Coefs) (v : Elem) {pos : Nat} (hpos : 11 ≤ pos) :
    bitAt (setCoefAt w 0 v) pos = bitAt w pos := by
  have hne : 0 ≠ coefOfBit pos := (Nat.div_pos hpos (by decide)).ne
  rw [bitAt, coefAt_setCoefAt_ne w 0 _ v hne, bitAt]

/-- With one check symbol the encoder writes position 0 alone, whatever the generator holds. -/
theorem encodeWord_hw_eq_setCoefAt (G : Nat → Elem) (w : Coefs) :
    ∃ v, encodeWord Config.hw G w = setCoefAt w 0 v := ⟨_, rfl⟩

/-- Bits that are those of a value of `n` bits are read as that value. -/
theorem bitsRead_eq_immElem {w : Coefs} {pos n imm : Nat} (hn : n ≤ 11) (himm : imm < 2 ^ n)
    (hbits : ∀ k, k < n → bitAt w (pos + k) = imm.testBit (n - 1 - k)) : bitsRead w pos n = immElem imm := by
  apply BitVec.eq_of_getLsbD_eq
  intro i hi
  rw [getLsbD_bitsRead w pos n hn, getLsbD_immElem imm hi]
  by_cases hlt : i < n
  · have hindex : n - 1 - (n - 1 - i) = i := by omega
    rw [decide_eq_true hlt, Bool.true_and, hbits _ (by omega), hindex]
  · have hzero : imm.testBit i = false :=
      Nat.testBit_lt_two_pow (himm.trans_le (Nat.pow_le_pow_right (by decide) (by omega)))
    rw [decide_eq_false hlt, Bool.false_and, hzero]

theorem toNat_immElem {imm : Nat} (himm : imm < 2048) : (immElem imm).toNat = imm := Nat.mod_eq_of_lt himm

/-- An immediate that is an element is answered as the number it is (R66). -/
theorem dataResponse_immElem {imm : Nat} (himm : imm < 2048) :
    dataResponse ((immElem imm).setWidth 16) = BitVec.ofNat 32 imm := by
  apply BitVec.eq_of_toNat_eq
  rw [dataResponse, BitVec.toNat_setWidth, BitVec.toNat_setWidth, toNat_immElem himm, BitVec.toNat_ofNat]
  omega

end Sys2Proof.Machine

namespace Sys2Proof.Proofs

open Sys2Proof.Machine Sys2Proof.Claims

/-- A write of a coefficient that exists, in the RUNNING state (R105). -/
theorem exec_plWrci {s : State} (hrun : s.Running) (pd : PReg) {idx : Nat} (hidx : idx < 14) (imm : Nat) :
    exec (.plWrci pd idx imm) s =
      .next ((s.setCoefs pd (setCoefAt (s.poly pd).c idx (immElem imm))).respondElem (immElem imm)) := by
  obtain ⟨-, hwrite⟩ | ⟨hge, -⟩ := s.writeCoef_cases pd idx (immElem imm)
  · exact hwrite ▸ exec_of_running hrun rfl
  · omega

/-- Settles O47: RS.COR completes the word in the position, which gives the same as completing the codeword itself. -/
theorem erasureIsRestored : Obligations.ErasureIsRestored := by
  unfold Obligations.ErasureIsRestored
  intro s rd pd i imm hrun hcode hi _
  refine ⟨_, _, exec_plWrci hrun pd hi imm, exec_rsCor (by exact hrun) rd pd hi, ?_⟩
  simp only [State.respondElem, State.poly_respond, State.poly_setStatus, State.poly_setElem, State.poly_setPoly_self,
    State.poly_setCoefs_self, PolyReg.scanned_c, State.elem_respond, State.elem_setStatus, State.elem_setElem_self]
  refine ⟨?coefs, ?elem, statusOk_withOk ..⟩
  case coefs => rw [completeAt_setCoefAt _ hi, completeAt_of_codeword hcode hi]
  case elem => rw [xorOthers_setCoefAt, (codeword_iff _ hi).mp hcode]

/-- A codeword is accepted (R126). -/
theorem exec_rsVfy_of_codeword {s : State} (hrun : s.Running) {pd : PReg} (hcode : Codeword (s.poly pd).c) :
    exec (.rsVfy pd) s = .next ((s.setStatus (withOk s.status true)).respond 1) := by
  refine exec_of_running hrun ?_
  rw [exec, execRsVfy, (isCodeword_iff _).mpr hcode]
  rfl

/-- Settles O48: the encoded word is a codeword, so its check symbol is the xor of the others, and it differs from the
word before in position 0 alone. -/
theorem encodedWordVerifies : Obligations.EncodedWordVerifies := by
  unfold Obligations.EncodedWordVerifies
  intro s pd hrun hconst hempty
  have ⟨hrsEnc, _⟩ := rsEncResult
  have ⟨hencode, _⟩ := hrsEnc s pd hrun hconst
  obtain ⟨t, hexec, hroots, -, hdata, -, -, -, hstatus, -⟩ := hencode hempty
  have hrun' : t.Running := by rw [State.Running, hstatus, hrun]
  have hcode : Codeword (t.poly pd).c := (wordEval_roots_iff _).mp hroots
  have hword := eq_setCoefAt (by decide : 0 < 14) fun i hi => hdata i (Nat.one_le_iff_ne_zero.mpr hi)
  refine ⟨t, _, hexec, exec_rsVfy_of_codeword hrun' hcode, ?check, statusOk_withOk .., rfl,
    fun pos hpos _ => ?payload⟩
  case check =>
    have hothers : (fun i => decide (1 ≤ i)) = fun i => decide (i ≠ 0) := by
      simp only [Nat.one_le_iff_ne_zero]
    calc coefAt (t.poly pd).c 0
        = xorOthers (t.poly pd).c 0 := (codeword_iff _ (by decide)).mp hcode
      _ = xorOthers (s.poly pd).c 0 := by rw [hword, xorOthers_setCoefAt]
      _ = xorWhere (s.poly pd).c fun i => decide (1 ≤ i) := by rw [hothers, xorOthers]
  case payload =>
    rw [State.poly_respond, State.poly_setStatus, hword, bitAt_setCoefAt_zero _ _ hpos]

/-- The payload stands above the check position, which is all that RS.ENC writes (R145). -/
theorem bitAt_of_exec_rsEnc {s t : State} {pd : PReg} (hexec : exec (.rsEnc pd) s = .next t) (k : PReg) {pos : Nat}
    (hpos : 11 ≤ pos) : bitAt (t.poly k).c pos = bitAt (s.poly k).c pos := by
  obtain rfl := Host.Outcome.next.inj hexec
  rcases s.whenRunning_cases _ with ⟨-, hrefuse⟩ | ⟨-, hrun⟩
  · rw [hrefuse]
    rfl
  · rw [hrun]
    split
    case isTrue => rfl
    case isFalse =>
      obtain ⟨v, hv⟩ := encodeWord_hw_eq_setCoefAt s.gen (s.poly pd).c
      rw [State.respondElem, State.poly_respond, State.poly_setPoly]
      split
      case isTrue hk => rw [PolyReg.scanned_c, hv, bitAt_setCoefAt_zero _ _ hpos, hk]
      case isFalse => rfl

/-- Settles O54: the bits read are those of the value, and RS.ENC writes none of the payload's. -/
theorem insertThenExtractReturnsValue : Obligations.InsertThenExtractReturnsValue := by
  unfold Obligations.InsertThenExtractReturnsValue
  refine ⟨?roundTrip, fun s t pd hexec k pos hpos _ => bitAt_of_exec_rsEnc hexec k hpos⟩
  intro s t u pd rd len imm hrun hmin hmax hfits hend hins hrun' hcursor hkept
  have ⟨hbfIns, _⟩ := bfInsResult
  obtain ⟨-, -, -, hinsert⟩ := hbfIns s pd len imm hrun
  obtain ⟨t', hins', hbits, -⟩ := hinsert hmin hmax hfits hend
  obtain rfl : t' = t := Host.Outcome.next.inj (hins'.symm.trans hins)
  have hread : bitsRead (u.poly pd).c s.bitpos.toNat len = immElem imm := by
    refine bitsRead_eq_immElem hmax hfits fun k hk => ?_
    rw [hkept _ (by omega) (by omega), hbits _ (by omega), if_pos (by omega), Nat.add_sub_cancel_left]
  have hexec := exec_bfExt rd pd len u
  rw [hcursor, if_neg (by omega), if_neg (by omega), hread] at hexec
  have hsmall : imm < 2048 := hfits.trans_le (Nat.pow_le_pow_right (by decide) hmax)
  refine ⟨_, exec_of_running hrun' hexec, ?value, ?response⟩
  case value =>
    rw [State.respondElem, State.elem_respond, State.elem_setBitpos, State.elem_setElem_self, toNat_immElem hsmall]
  case response =>
    rw [State.respondElem_responses, dataResponse_immElem hsmall]
    rfl

end Sys2Proof.Proofs
end

section
/-! Which PL commands keep a register normalised (R102 to R111): those that end in a scan or empty the register, as their
own results say; a register read is not written, by the column "written by" of R20. -/

namespace Sys2Proof.Machine

open Sys2Proof.Claims

/-- The two execution states exclude each other (R31). -/
theorem State.Running.not_faulted {s : State} (hrun : s.Running) : ¬ s.Faulted :=
  fun hfaulted => Bool.false_ne_true (hrun.symm.trans hfaulted)

theorem State.p_eq_of_poly_eq {s t : State} (h : ∀ k, t.poly k = s.poly k) : t.p = s.p :=
  Vector.ext fun k hk => h ⟨k, hk⟩

theorem normalised_of_coefs_zero {q : PolyReg} (hzero : ∀ i, i < 14 → coefAt q.c i = 0) (hdeg : q.deg = -1) :
    Normalised q := ⟨fun i hi _ => hzero i hi, .inl hdeg⟩

theorem normalised_empty : Normalised PolyReg.empty :=
  normalised_of_coefs_zero (fun i _ => PolyReg.coefAt_empty i) rfl

/-- A nonzero coefficient above the degree breaks (a) of R24. -/
theorem not_normalised_of_above {q : PolyReg} {i : Nat} (hi : i < 14) (hdeg : q.deg < i) (hne : coefAt q.c i ≠ 0) :
    ¬ Normalised q := fun ⟨habove, _⟩ => hne (habove i hi hdeg)

/-- A zero coefficient at the degree breaks (b) of R24. -/
theorem not_normalised_of_leading_zero {q : PolyReg} {n : Nat} (hdeg : q.deg = n) (hzero : coefAt q.c n = 0) :
    ¬ Normalised q := by
  rintro ⟨-, hneg | ⟨-, -, hne⟩⟩
  · omega
  · rw [hdeg] at hne
    exact hne hzero

/-- The product with (x - a) of a normalised polynomial of degree n below 13 has degree n + 1 and the same leading
coefficient: the one term at n + 1 is the shifted one. -/
theorem coefAt_timesXMinus_succ {q : PolyReg} {n : Nat} (hdeg : q.deg = n) (hn : n ≤ 12) (a : Elem) :
    coefAt (timesXMinus q a) (n + 1) = coefAt q.c n := by
  have hshift : logical q (((n + 1 : Nat) : Int) - 1) = coefAt q.c n := by
    rw [Int.natCast_add_one, Int.add_sub_cancel, logical_of_le q n (by omega)]
  rw [coefAt_timesXMinus q a _ (by omega), hshift, logical_of_gt q _ (by omega), gfMul_zero]
  exact BitVec.xor_zero

theorem scan_timesXMinus {q : PolyReg} (hnorm : Normalised q) {n : Nat} (hdeg : q.deg = n) (hn : n ≤ 12) (a : Elem) :
    scan (timesXMinus q a) = (n + 1 : Nat) := by
  have hlead : coefAt q.c n ≠ 0 := by
    obtain ⟨-, hneg | ⟨-, -, hne⟩⟩ := hnorm
    · omega
    · simpa only [hdeg, Int.toNat_natCast] using hne
  refine (scan_eq_natCast_iff _ _).mpr ⟨by omega, ?_, fun i hlt hi => ?_⟩
  · rwa [coefAt_timesXMinus_succ hdeg hn]
  · rw [coefAt_timesXMinus q a i hi, logical_of_gt q _ (by omega), logical_of_gt q _ (by omega), gfMul_zero]
    rfl

end Sys2Proof.Machine

namespace Sys2Proof.Proofs

open Sys2Proof.Machine Sys2Proof.Claims

/-- `exec` answers one state. -/
theorem eq_of_exec_eq {i : Instr} {s t t' : State} (h : exec i s = .next t) (h' : exec i s = .next t') : t = t' :=
  Host.Outcome.next.inj (h.symm.trans h')

/-- What a command leaves behind is what is listed for it (R20). -/
theorem writesOnlyListed_of_exec {i : Instr} {s t : State} (hexec : exec i s = .next t) : WritesOnlyListed i s t := by
  obtain ⟨t', hexec', hlisted⟩ := exec_writesOnlyListed i s
  exact eq_of_exec_eq hexec' hexec ▸ hlisted

/-- A command that is listed for no coefficient and no degree writes no polynomial register. -/
theorem p_eq_of_not_listed {i : Instr} {s t : State} (hexec : exec i s = .next t) (hc : writesCoefs i = false)
    (hd : writesDegs i = false) : t.p = s.p := by
  have hlisted := writesOnlyListed_of_exec hexec
  refine State.p_eq_of_poly_eq fun k => ?_
  have hcoefs : (t.poly k).c = (s.poly k).c := by
    by_contra hne
    exact Bool.false_ne_true (hc.symm.trans (hlisted.coefs k hne))
  have hdegs : (t.poly k).deg = (s.poly k).deg := by
    by_contra hne
    exact Bool.false_ne_true (hd.symm.trans (hlisted.degs k hne))
  calc t.poly k = ⟨(t.poly k).c, (t.poly k).deg⟩ := rfl
    _ = s.poly k := by rw [hcoefs, hdegs]

/-- PL.MULXA that is executed leaves a normalised register. -/
theorem normalised_of_exec_plMulxa {s t : State} {pd : PReg} {ra : EReg} (hrun : s.Running)
    (hexec : exec (.plMulxa pd ra) s = .next t) (hrun' : t.Running) : Normalised (t.poly pd) := by
  have ⟨hmulxa, _⟩ := plMulxaResult
  obtain ⟨hfull, hroom⟩ := hmulxa s pd ra hrun
  by_cases hdeg : (s.poly pd).deg = 13
  · obtain ⟨u, hexec', -, -, -, -, -, hfaulted, -⟩ := hfull hdeg
    obtain rfl := eq_of_exec_eq hexec' hexec
    exact absurd hfaulted hrun'.not_faulted
  · obtain ⟨u, hexec', -, hnorm, -⟩ := hroom hdeg
    exact eq_of_exec_eq hexec' hexec ▸ hnorm

/-- PL.CLR, PL.SETDEG, PL.MULXA and PL.ADD, executed, leave their register normalised whatever it was. -/
theorem normalised_of_exec {s t : State} {pd : PReg} {i : Instr} (hrun : s.Running) (hexec : exec i s = .next t)
    (hrun' : t.Running)
    (hi : i = .plClr pd ∨ i = .plSetdeg pd ∨ (∃ ra, i = .plMulxa pd ra) ∨ (∃ ps, i = .plAdd pd ps)) :
    Normalised (t.poly pd) := by
  rcases hi with rfl | rfl | ⟨ra, rfl⟩ | ⟨ps, rfl⟩
  · have ⟨hclr, _⟩ := plClrResult
    obtain ⟨u, hexec', hzero, hdeg, -⟩ := hclr s pd hrun
    exact eq_of_exec_eq hexec' hexec ▸ normalised_of_coefs_zero hzero hdeg
  · have ⟨hsetdeg, _⟩ := plSetdegResult
    obtain ⟨u, hexec', -, hnorm, -⟩ := hsetdeg s pd hrun
    exact eq_of_exec_eq hexec' hexec ▸ hnorm
  · exact normalised_of_exec_plMulxa hrun hexec hrun'
  · have ⟨hadd, _⟩ := plAddResult
    obtain ⟨u, hexec', -, hnorm, -⟩ := hadd s pd ps hrun
    exact eq_of_exec_eq hexec' hexec ▸ hnorm

/-- PL.MULXA of a normalised register of degree 0 to 12. -/
theorem poly_of_exec_plMulxa {s t : State} {pd : PReg} {ra : EReg} (hrun : s.Running) (hdeg : (s.poly pd).deg ≤ 12)
    (hexec : exec (.plMulxa pd ra) s = .next t) :
    t.poly pd = PolyReg.scanned (timesXMinus (s.poly pd) (s.elem ra)) := by
  have hroom : (s.poly pd).deg ≠ 13 := by omega
  have hexec' := exec_of_running hrun (exec_plMulxa pd ra s)
  rw [if_neg hroom] at hexec'
  rw [eq_of_exec_eq hexec hexec', State.poly_deliverPoly_self]

/-- Settles O39. The registers that PL.WRC, PL.WRCI and PL.WRDEG break are the empty one of reset: a coefficient written
above its degree, and a degree written where its coefficient is zero. -/
theorem normalisationOfPlCommands : Obligations.NormalisationOfPlCommands := by
  unfold Obligations.NormalisationOfPlCommands
  refine ⟨fun s t pd i => normalised_of_exec, ?reads, ?wrc, ?wrci, ?wrdeg, ?setdeg, ?mulxa⟩
  case reads =>
    rintro s t pd i hexec (⟨rd, idx, rfl⟩ | rfl | ⟨rd, ra, rfl⟩)
    · exact p_eq_of_not_listed hexec rfl rfl
    · exact p_eq_of_not_listed hexec rfl rfl
    · exact p_eq_of_not_listed hexec rfl rfl
  case wrc =>
    exact ⟨State.reset.setElem 1 1, _, normalised_empty, rfl,
      not_normalised_of_above (i := 3) (by decide) (by decide) (by decide)⟩
  case wrci =>
    exact ⟨State.reset, _, normalised_empty, rfl,
      not_normalised_of_above (i := 3) (by decide) (by decide) (by decide)⟩
  case wrdeg =>
    exact ⟨State.reset, _, normalised_empty, rfl, not_normalised_of_leading_zero (n := 3) (by decide) (by decide)⟩
  case setdeg =>
    intro s t pd hexec
    by_contra hne
    exact Bool.false_ne_true ((writesOnlyListed_of_exec hexec).coefs pd hne)
  case mulxa =>
    intro s t pd ra hrun hnorm hmin hmax hexec
    obtain ⟨n, hdeg⟩ := Int.eq_ofNat_of_zero_le hmin
    have hn : n ≤ 12 := by omega
    rw [poly_of_exec_plMulxa hrun hmax hexec, PolyReg.scanned_deg, PolyReg.scanned_c, scan_timesXMinus hnorm hdeg hn,
      hdeg, Int.toNat_natCast, Int.toNat_natCast, coefAt_timesXMinus_succ hdeg hn]
    exact ⟨rfl, rfl⟩

end Sys2Proof.Proofs
end

section
/-! The invariant of the block (R23, R26 to R29). Each update of the state keeps it, given a legal value where it writes
a degree, STATUS or BITPOS, and every command is a composition of such updates (O19); reset has it (O20). -/

namespace Sys2Proof.Machine

/-! ### STATUS -/

/-- STATUS is legal when its zero bits are zero and FCODE is one of the codes that F asks for (R26, R160). -/
theorem statusLegal_of_zeroBits_kept {st st' : Half} (hst : StatusLegal st)
    (hzero : ∀ b, b = 2 ∨ b = 3 ∨ 9 ≤ b → st'.getLsbD b = st.getLsbD b)
    (hcode : (statusF st' = false → statusFcode st' = 0) ∧
      (statusF st' = true → 1 ≤ (statusFcode st').toNat ∧ (statusFcode st').toNat ≤ 6)) : StatusLegal st' := by
  obtain ⟨hlow, hhigh, -, -⟩ := hst
  have hlow' : st'.extractLsb' 2 2 = st.extractLsb' 2 2 := by
    apply BitVec.eq_of_getLsbD_eq
    intro i hi
    rw [BitVec.getLsbD_extractLsb', BitVec.getLsbD_extractLsb', hzero _ (by omega)]
  have hhigh' : st'.extractLsb' 9 7 = st.extractLsb' 9 7 := by
    apply BitVec.eq_of_getLsbD_eq
    intro i hi
    rw [BitVec.getLsbD_extractLsb', BitVec.getLsbD_extractLsb', hzero _ (by omega)]
  exact ⟨hlow'.trans hlow, hhigh'.trans hhigh, hcode⟩

theorem StatusLegal.withOk {st : Half} (h : StatusLegal st) (b : Bool) : StatusLegal (withOk st b) := by
  refine statusLegal_of_zeroBits_kept h (fun i hi => ?_) ?_
  · rw [getLsbD_withOk, if_neg (by omega)]
  · obtain ⟨-, -, hcode⟩ := h
    rwa [statusF_withOk, statusFcode_withOk]

theorem StatusLegal.withEq {st : Half} (h : StatusLegal st) (b : Bool) : StatusLegal (withEq st b) := by
  refine statusLegal_of_zeroBits_kept h (fun i hi => ?_) ?_
  · rw [getLsbD_withEq, if_neg (by omega)]
  · obtain ⟨-, -, hcode⟩ := h
    rwa [statusF_withEq, statusFcode_withEq]

theorem FaultCode.code_range (f : FaultCode) : 1 ≤ f.code.toNat ∧ f.code.toNat ≤ 6 := by cases f <;> decide

theorem StatusLegal.withFault {st : Half} (h : StatusLegal st) (f : FaultCode) : StatusLegal (withFault st f) := by
  refine statusLegal_of_zeroBits_kept h (fun i hi => ?_) ?_
  · rw [getLsbD_withFault, if_neg (by omega), if_neg (by omega)]
  · rw [statusF_withFault, statusFcode_withFault]
    exact ⟨fun hrun => absurd hrun.symm Bool.false_ne_true, fun _ => f.code_range⟩

/-! ### One rule per update -/

namespace State.Inv
variable {s k : State} (h : s.Inv)
include h

theorem degreeLegal (pd : PReg) : DegreeLegal (s.poly pd).deg := by
  obtain ⟨-, hdegs, -⟩ := h
  exact hdegs pd

theorem answer (r : Word) : (s.answer r).Inv := h

theorem respond (d : Half) : (s.respond d).Inv := h

theorem respondElem (v : Elem) : (s.respondElem v).Inv := h

theorem setElem (r : EReg) (v : Elem) : (s.setElem r v).Inv := h

theorem deliver (r : EReg) (v : Elem) : (s.deliver r v).Inv := h

theorem setPoly (pd : PReg) {q : PolyReg} (hq : DegreeLegal q.deg) : (s.setPoly pd q).Inv := by
  obtain ⟨hstatus, hdegs, hbitpos, hconst⟩ := h
  refine ⟨hstatus, fun k' => ?_, hbitpos, hconst⟩
  rw [State.poly_setPoly]
  split
  case isTrue => exact hq
  case isFalse => exact hdegs k'

theorem setCoefs (pd : PReg) (w : Coefs) : (s.setCoefs pd w).Inv := setPoly h pd (degreeLegal h pd)

theorem setDeg (pd : PReg) {d : Int} (hd : DegreeLegal d) : (s.setDeg pd d).Inv := setPoly h pd hd

/-- The commands that write a whole register set its degree by scanning. -/
theorem setPoly_scanned (pd : PReg) (w : Coefs) : (s.setPoly pd (PolyReg.scanned w)).Inv :=
  setPoly h pd (degreeLegal_scan w)

theorem deliverPoly_scanned (pd : PReg) (w : Coefs) : (s.deliverPoly pd (PolyReg.scanned w)).Inv :=
  setPoly_scanned h pd w

theorem setStatus {st : Half} (hst : StatusLegal st) : (s.setStatus st).Inv := by
  obtain ⟨-, hrest⟩ := h
  exact ⟨hst, hrest⟩

theorem setOk (b : Bool) : (s.setStatus (withOk s.status b)).Inv := by
  have ⟨hstatus, _⟩ := h
  exact setStatus h (hstatus.withOk b)

theorem setEq (b : Bool) : (s.setStatus (withEq s.status b)).Inv := by
  have ⟨hstatus, _⟩ := h
  exact setStatus h (hstatus.withEq b)

theorem setBitpos {n : Nat} (hn : n ≤ 154) : (s.setBitpos n).Inv := by
  obtain ⟨hstatus, hdegs, -, hconst⟩ := h
  exact ⟨hstatus, hdegs, (toNat_cursor hn).trans_le hn, hconst⟩

theorem raise (f : FaultCode) : (s.raise f).Inv := by
  have ⟨hstatus, _⟩ := h
  exact setStatus h (hstatus.withFault f)

/-- A refused command changes nothing of the block. -/
theorem whenRunning (hk : k.Inv) : (s.whenRunning k).Inv := by
  rcases s.whenRunning_cases k with ⟨-, hrefuse⟩ | ⟨-, hrun⟩
  · rw [hrefuse]
    exact h
  · rw [hrun]
    exact hk

theorem rejectWord : s.rejectWord.Inv := whenRunning h (raise h .illegal)

theorem writeCoef (pd : PReg) (idx : Nat) (v : Elem) : (s.writeCoef pd idx v).Inv := by
  rcases s.writeCoef_cases pd idx v with ⟨-, hwrite⟩ | ⟨-, hraise⟩
  · exact hwrite ▸ setCoefs h pd _
  · exact hraise ▸ raise h .operand

end State.Inv

/-- Reset meets the invariant from every state (R33). -/
theorem State.inv_resetBlock (s : State) : s.resetBlock.Inv := by
  obtain ⟨-, hpoly, hstatus, hbitpos, hconst⟩ := s.atResetValues_resetBlock
  refine ⟨?status, fun k => ?degree, ?bitpos, hconst⟩
  case status =>
    rw [hstatus]
    decide
  case degree =>
    obtain ⟨-, hdeg⟩ := hpoly k
    rw [hdeg]
    decide
  case bitpos =>
    rw [hbitpos]
    decide

end Sys2Proof.Machine

namespace Sys2Proof.Proofs

open Sys2Proof.Machine

/-- The degrees that PL.WRDEG accepts are legal (R67, R107). -/
theorem degreeLegal_of_degreeOfImm {imm : Nat} {d : Int} (h : degreeOfImm imm = some d) : DegreeLegal d := by
  rw [degreeOfImm_eq] at h
  split at h
  case isTrue hlow =>
    obtain rfl := Option.some.inj h
    exact ⟨by omega, by omega⟩
  case isFalse =>
    split at h
    case isTrue =>
      obtain rfl := Option.some.inj h
      decide
    case isFalse => cases h

/-- Every command keeps the invariant. -/
theorem exec_keepsInv (i : Instr) {s : State} (h : s.Inv) : ∃ t, exec i s = .next t ∧ t.Inv := by
  cases i with
  | sysNop | plRddeg => exact ⟨_, rfl, h.whenRunning (h.respond _)⟩
  | sysRdcr =>
    refine ⟨_, rfl, ?_⟩
    split
    · exact h.respond _
    · exact h.whenRunning (h.raise _)
  | sysRst => exact ⟨_, rfl, s.inv_resetBlock.respond 0⟩
  | gfLdi | gfMov | gfAdd | gfMul | gfPow | plEval => exact ⟨_, rfl, h.whenRunning (h.deliver _ _)⟩
  | gfInv =>
    refine ⟨_, rfl, h.whenRunning ?_⟩
    split
    · exact h.raise _
    · exact h.deliver _ _
  | gfEq => exact ⟨_, rfl, h.whenRunning ((h.setEq _).respond _)⟩
  | rsVfy => exact ⟨_, rfl, h.whenRunning ((h.setOk _).respond _)⟩
  | plClr pd => exact ⟨_, rfl, h.whenRunning ((h.setPoly pd (by decide)).respond _)⟩
  | plRdc | rsGen =>
    refine ⟨_, rfl, h.whenRunning ?_⟩
    split
    · exact h.deliver _ _
    · exact h.raise _
  | plWrc | plWrci => exact ⟨_, rfl, h.whenRunning (h.writeCoef _ _ _)⟩
  | plWrdeg pd imm =>
    refine ⟨_, rfl, h.whenRunning ?_⟩
    split
    next hdegree => exact (h.setDeg pd (degreeLegal_of_degreeOfImm hdegree)).respond _
    next => exact h.raise _
  | plSetdeg | plAdd => exact ⟨_, rfl, h.whenRunning (h.deliverPoly_scanned _ _)⟩
  | plMulxa =>
    refine ⟨_, rfl, h.whenRunning ?_⟩
    split
    · exact h.raise _
    · exact h.deliverPoly_scanned _ _
  | rsEnc =>
    refine ⟨_, rfl, h.whenRunning ?_⟩
    split
    · exact h.raise _
    · exact (h.setPoly_scanned _ _).respondElem _
  | rsCor rd pd =>
    refine ⟨_, rfl, h.whenRunning ?_⟩
    split
    · split
      · exact (((h.setPoly_scanned pd _).setElem rd _).setOk _).respondElem _
      · exact (h.setOk _).respond _
    · exact h.raise _
  | bfSeek imm =>
    refine ⟨_, exec_bfSeek imm s, h.whenRunning ?_⟩
    split
    case isTrue himm => exact (h.setBitpos himm).respond _
    case isFalse => exact h.raise _
  | bfIns pd len imm =>
    refine ⟨_, exec_bfIns pd len imm s, h.whenRunning ?_⟩
    split_ifs with hlen hval hpast
    · exact h.raise _
    · exact h.raise _
    · exact h.raise _
    · exact ((h.setCoefs pd _).setBitpos (Nat.not_lt.mp hpast)).respond _
  | bfExt rd pd len =>
    refine ⟨_, exec_bfExt rd pd len s, h.whenRunning ?_⟩
    split_ifs with hlen hpast
    · exact h.raise _
    · exact h.raise _
    · exact ((h.setElem rd _).setBitpos (Nat.not_lt.mp hpast)).respondElem _

/-- What a step does with each event that can stand at the port (R72, R178, R180). -/
theorem step_cases {s t : State} (hstep : step s = .next t) :
    (s.port = [] ∧ t = s) ∨
    (∃ w rest i, s.port = .command w :: rest ∧ decode w = .ok i ∧ exec i { s with port := rest } = .next t) ∨
    (∃ w rest d, s.port = .command w :: rest ∧ decode w = .error d ∧ t = { s with port := rest }.rejectWord) ∨
    (∃ ev rest, s.port = ev :: rest ∧ (ev = .hardReset ∨ ∃ w, ev = .cutCommand w) ∧
      t = { s with port := rest }.resetBlock) := by
  rcases s.takeEvent_cases with ⟨hport, hevent⟩ | ⟨w, rest, i, hport, hdec, hevent⟩ | ⟨w, rest, d, hport, hdec, hevent⟩ |
    ⟨ev, rest, hport, hreset, hevent⟩ <;> rw [step, hevent] at hstep
  · exact .inl ⟨hport, (Host.Outcome.next.inj hstep).symm⟩
  · exact .inr (.inl ⟨w, rest, i, hport, hdec, hstep⟩)
  · exact .inr (.inr (.inl ⟨w, rest, d, hport, hdec, (Host.Outcome.next.inj hstep).symm⟩))
  · exact .inr (.inr (.inr ⟨ev, rest, hport, hreset, (Host.Outcome.next.inj hstep).symm⟩))

/-- Settles O19: the port is no part of the invariant, and what a step does with its event keeps it. -/
theorem stepKeepsInv : Obligations.StepKeepsInv := by
  unfold Obligations.StepKeepsInv
  intro s t hinv hstep
  obtain ⟨-, rfl⟩ | ⟨w, rest, i, -, -, hexec⟩ | ⟨w, rest, d, -, -, rfl⟩ | ⟨ev, rest, -, -, rfl⟩ := step_cases hstep
  · exact hinv
  · obtain ⟨t', hexec', hinv'⟩ := exec_keepsInv i (s := { s with port := rest }) hinv
    exact eq_of_exec_eq hexec' hexec ▸ hinv'
  · exact State.Inv.rejectWord (s := { s with port := rest }) hinv
  · exact State.inv_resetBlock _

/-- Settles O20: the reset state is what reset makes of itself. -/
theorem resetMeetsInv : Obligations.ResetMeetsInv := State.reset.inv_resetBlock

/-- Settles O12: taking the event from the port finds the command. -/
theorem stepRunsTheDecodedCommand : Obligations.StepRunsTheDecodedCommand := by
  unfold Obligations.StepRunsTheDecodedCommand
  exact fun _ _ _ _ hport hdec _ => step_of_decode_ok hport hdec

/-- Both forms of the hard reset reset the block and answer nothing (R180). -/
theorem step_of_hard_reset {s : State} {ev : PortEvent} {rest : List PortEvent} (hport : s.port = ev :: rest)
    (hev : ev = .hardReset ∨ ∃ w, ev = .cutCommand w) : step s = .next { s with port := rest }.resetBlock := by
  rcases hev with rfl | ⟨w, rfl⟩ <;> rw [step, State.takeEvent, hport]

/-- Settles O17: both resets go through `resetBlock`, which has the values of R33, and SYS.RST only answers more. -/
theorem resetReachesResetValues : Obligations.ResetReachesResetValues := by
  unfold Obligations.ResetReachesResetValues
  refine ⟨State.reset.atResetValues_resetBlock, fun s ev rest hport hev => ?_⟩
  exact ⟨_, step_of_hard_reset hport hev, State.atResetValues_resetBlock _, rfl, rfl, _, rfl,
    State.sameBlock_respond _ 0⟩

end Sys2Proof.Proofs
end

section
/-! How a presented command is answered (R66, R170) and what that says of a run (R194). `AnswersOnce` says of a command
or of an illegal word that one response leaves the block, and that F = 1 in it puts or finds the block FAULTED, while
F = 0 leaves STATUS.F as it was; SYS.RST alone is not so answered. -/

namespace Sys2Proof.Machine

open Sys2Proof.Claims

/-! ### The response format -/

/-- The code is that of one of the six faults or of REFUSED (R66, R160, R167). -/
abbrev AnswerCode (code : BitVec 4) : Prop := code.toNat ∈ [1, 2, 3, 4, 5, 6, 15]

theorem FaultCode.answerCode (f : FaultCode) : AnswerCode f.code := by cases f <;> decide

/-- The response format of R66. -/
abbrev ResponseFormat (r : Word) : Prop :=
  r.extractLsb' 28 3 = 0 ∧ r.extractLsb' 16 8 = 0 ∧
  (responseF r = false → responseFcode r = 0) ∧
  (responseF r = true → responseData r = 0 ∧ responseFcode r ∈ [1, 2, 3, 4, 5, 6, 15])

/-- Above DATA the response of an executed command is zero. -/
theorem extractLsb'_dataResponse (d : Half) {lo : Nat} (hlo : 16 ≤ lo) (width : Nat) :
    (dataResponse d).extractLsb' lo width = 0 := by
  apply BitVec.eq_of_getLsbD_eq
  intro i hi
  rw [BitVec.getLsbD_extractLsb', dataResponse, BitVec.getLsbD_setWidth, BitVec.getLsbD_of_ge d _ (by omega)]
  simp

theorem responseFormat_dataResponse (d : Half) : ResponseFormat (dataResponse d) := by
  refine ⟨extractLsb'_dataResponse d (by decide) _, extractLsb'_dataResponse d (by decide) _, fun _ => ?_, fun hF => ?_⟩
  · rw [responseFcode, extractLsb'_dataResponse d (by decide)]
    rfl
  · exact absurd ((responseF_dataResponse d).symm.trans hF) Bool.false_ne_true

/-- The fields of a response with F = 1, for each of the sixteen codes that FCODE can hold. -/
theorem fields_faultResponse (code : BitVec 4) :
    (faultResponse code).extractLsb' 28 3 = 0 ∧ (faultResponse code).extractLsb' 16 8 = 0 ∧
    responseData (faultResponse code) = 0 ∧ responseFcode (faultResponse code) = code.toNat := by
  decide +revert

theorem responseFormat_faultResponse {code : BitVec 4} (hcode : AnswerCode code) :
    ResponseFormat (faultResponse code) := by
  obtain ⟨hhigh, hmid, hdata, hfcode⟩ := fields_faultResponse code
  refine ⟨hhigh, hmid, fun hF => ?_, fun _ => ⟨hdata, hfcode ▸ hcode⟩⟩
  exact absurd (hF.symm.trans (responseF_faultResponse code)) Bool.false_ne_true

/-! ### One answer per command -/

/-- `t` is `s` after a command, or after a word that is none, that was answered with one response. -/
inductive AnswersOnce (s t : State) : Prop where
  /-- Executed: F is 0 in the response, and STATUS.F is as it was. -/
  | executed (data : Half) (hF : statusF t.status = statusF s.status)
      (hresponses : t.responses = s.responses ++ [dataResponse data])
  /-- Faulted or refused: F is 1 in the response, and the block is FAULTED. -/
  | failed (code : BitVec 4) (hcode : AnswerCode code) (hF : t.Faulted)
      (hresponses : t.responses = s.responses ++ [faultResponse code])

theorem State.answersOnce_raise (s : State) (f : FaultCode) : AnswersOnce s (s.raise f) :=
  .failed f.code f.answerCode (statusF_withFault ..) rfl

theorem State.answersOnce_refuse {s : State} (hfaulted : s.Faulted) : AnswersOnce s s.refuse :=
  .failed 15 (by decide) hfaulted rfl

theorem State.answersOnce_respond (s : State) (data : Half) : AnswersOnce s (s.respond data) :=
  .executed data rfl rfl

theorem State.answersOnce_rejectWord (s : State) : AnswersOnce s s.rejectWord := by
  rcases s.rejectWord_cases with ⟨hfaulted, hrefuse⟩ | ⟨-, hraise⟩
  · exact hrefuse ▸ State.answersOnce_refuse hfaulted
  · exact hraise ▸ s.answersOnce_raise .illegal

theorem State.port_rejectWord (s : State) : s.rejectWord.port = s.port := by
  rcases s.rejectWord_cases with ⟨-, hrefuse⟩ | ⟨-, hraise⟩
  · exact hrefuse ▸ rfl
  · exact hraise ▸ rfl

theorem AnswersOnce.exists_response {s t : State} (h : AnswersOnce s t) :
    ∃ r, t.responses = s.responses ++ [r] ∧ ResponseFormat r := by
  cases h with
  | executed data _ hresponses => exact ⟨_, hresponses, responseFormat_dataResponse data⟩
  | failed code hcode _ hresponses => exact ⟨_, hresponses, responseFormat_faultResponse hcode⟩

/-! ### Runs that have gone well -/

theorem State.wentWell_iff_of_append {s t : State} {r : Word} (hresponses : t.responses = s.responses ++ [r]) :
    t.WentWell ↔ s.WentWell ∧ responseF r = false := by
  rw [State.WentWell, hresponses, List.forall_mem_append, List.forall_mem_singleton]

/-- An answer keeps it so that the run has gone well exactly while the block is RUNNING. -/
theorem AnswersOnce.wentWell_iff_running {s t : State} (h : AnswersOnce s t) (hs : s.WentWell ↔ s.Running) :
    t.WentWell ↔ t.Running := by
  cases h with
  | executed data hF hresponses =>
    rw [State.wentWell_iff_of_append hresponses, hs, State.Running, State.Running, hF]
    exact and_iff_left (responseF_dataResponse data)
  | failed code _ hF hresponses =>
    rw [State.wentWell_iff_of_append hresponses, State.Running, hF, responseF_faultResponse]
    exact iff_of_false (fun ⟨_, hfalse⟩ => Bool.false_ne_true hfalse.symm) fun hfalse => Bool.false_ne_true hfalse.symm

end Sys2Proof.Machine

namespace Sys2Proof.Proofs

open Sys2Proof.Machine Sys2Proof.Claims

/-! ### The faults that are expected have codes of R160 -/

/-- The expectation names one of the six faults, or none. -/
def NamesFault (expected : Option Nat) : Prop := ∀ c, expected = some c → ∃ f : FaultCode, f.code.toNat = c

theorem NamesFault.none : NamesFault none := fun _ h => nomatch h

theorem NamesFault.ite {p : Prop} [Decidable p] (f : FaultCode) {expected : Option Nat} (h : NamesFault expected) :
    NamesFault (if p then some f.code.toNat else expected) := by
  split
  case isTrue => exact fun c hc => ⟨f, Option.some.inj hc⟩
  case isFalse => exact h

theorem namesFault_expectedFault (i : Instr) (s : State) : NamesFault (expectedFault i s) := by
  open NamesFault in
  cases i with
  | sysRdcr | plRdc | plWrc | plWrci | rsCor | rsGen | bfSeek => exact ite .operand none
  | gfInv => exact ite .invzero none
  | plWrdeg =>
    rw [expectedFault, ← ite_not]
    exact ite .operand none
  | plMulxa => exact ite .polyovf none
  | rsEnc => exact ite .encpre none
  | bfIns => exact ite .operand (ite .operand (ite .bitrange none))
  | bfExt => exact ite .operand (ite .bitrange none)
  | _ => exact none

/-! ### Every command -/

/-- In the FAULTED state a command other than SYS.RST is refused, or answered by SYS.RDCR (R170). -/
theorem exec_of_faulted {i : Instr} {s : State} (hfaulted : s.Faulted) (hrst : i ≠ .sysRst) :
    exec i s = .next s.refuse ∨ ∃ data, exec i s = .next (s.respond data) := by
  by_cases hread : ∃ idx, i = .sysRdcr idx ∧ idx ≤ 4
  · obtain ⟨idx, rfl, hidx⟩ := hread
    exact .inr ⟨_, exec_sysRdcr_of_le s hidx⟩
  · have hrdcr (idx : Nat) (hi : i = .sysRdcr idx) : 4 < idx := Nat.lt_of_not_le fun hle => hread ⟨idx, hi, hle⟩
    obtain ⟨k, hexec⟩ := exec_eq_whenRunning s hrst hrdcr
    exact .inl (s.whenRunning_of_faulted k hfaulted ▸ hexec)

/-- Every command but SYS.RST answers once and leaves the port. -/
theorem exec_answersOnce {i : Instr} (s : State) (hrst : i ≠ .sysRst) :
    ∃ t, exec i s = .next t ∧ t.port = s.port ∧ AnswersOnce s t := by
  cases hF : statusF s.status with
  | true =>
    obtain hexec | ⟨data, hexec⟩ := exec_of_faulted hF hrst
    · exact ⟨_, hexec, rfl, State.answersOnce_refuse hF⟩
    · exact ⟨_, hexec, rfl, s.answersOnce_respond data⟩
  | false =>
    obtain ⟨t, hexec, hends⟩ := exec_endsAsExpected i hF
    cases hexpected : expectedFault i s with
    | none =>
      rw [hexpected] at hends
      obtain ⟨hrun', hport, data, hresponses⟩ := hends
      exact ⟨t, hexec, hport, .executed data (hrun'.trans hF.symm) hresponses⟩
    | some c =>
      rw [hexpected] at hends
      obtain ⟨-, -, -, -, hport, hfaulted, -, -, hresponses⟩ := hends
      obtain ⟨f, rfl⟩ := namesFault_expectedFault i s c hexpected
      exact ⟨t, hexec, hport, .failed f.code f.answerCode hfaulted (hresponses.trans (faultResponse_code f ▸ rfl))⟩

/-- Settles O16: SYS.RST answers 0, and every other word is answered once in the format of R66. -/
theorem everyCommandAnsweredOnce : Obligations.EveryCommandAnsweredOnce := by
  unfold Obligations.EveryCommandAnsweredOnce
  intro s w rest hport
  cases hdec : decode w with
  | error d =>
    obtain ⟨r, hresponses, hformat⟩ := (State.answersOnce_rejectWord { s with port := rest }).exists_response
    exact ⟨_, r, step_of_decode_error hport hdec, State.port_rejectWord _, hresponses, hformat⟩
  | ok i =>
    rw [step_of_decode_ok hport hdec]
    by_cases hrst : i = .sysRst
    · subst hrst
      exact ⟨_, _, rfl, rfl, rfl, responseFormat_dataResponse 0⟩
    · obtain ⟨t, hexec, hport', hanswers⟩ := exec_answersOnce { s with port := rest } hrst
      obtain ⟨r, hresponses, hformat⟩ := hanswers.exists_response
      exact ⟨t, r, hexec, hport', hresponses, hformat⟩

/-! ### Steps without a reset -/

/-- A word that is no reset does not decode to SYS.RST. -/
theorem ne_sysRst_of_decode {w : Word} {i : Instr} (hdec : decode w = .ok i)
    (hno : (PortEvent.command w).resets = false) : i ≠ .sysRst := by
  rintro rfl
  rw [(decode_eq_sysRst_iff w).mp hdec] at hno
  exact absurd hno (by decide)

theorem resets_of_hard_reset {ev : PortEvent} (hev : ev = .hardReset ∨ ∃ w, ev = .cutCommand w) : ev.resets = true := by
  rcases hev with rfl | ⟨w, rfl⟩ <;> rfl

/-- A step at a port without resets does nothing, or answers its event once and takes it from the port. -/
theorem step_answersOnce {s t : State} (hno : ∀ ev ∈ s.port, ev.resets = false) (hstep : step s = .next t) :
    t = s ∨ ∃ ev rest, s.port = ev :: rest ∧ t.port = rest ∧ AnswersOnce { s with port := rest } t := by
  obtain ⟨-, rfl⟩ | ⟨w, rest, i, hport, hdec, hexec⟩ | ⟨w, rest, d, hport, -, rfl⟩ | ⟨ev, rest, hport, hev, -⟩ :=
    step_cases hstep
  · exact .inl rfl
  · have hrst := ne_sysRst_of_decode hdec (hno _ (hport ▸ List.mem_cons_self))
    obtain ⟨t', hexec', hport', hanswers⟩ := exec_answersOnce { s with port := rest } hrst
    obtain rfl := eq_of_exec_eq hexec' hexec
    exact .inr ⟨_, rest, hport, hport', hanswers⟩
  · exact .inr ⟨_, rest, hport, State.port_rejectWord _, State.answersOnce_rejectWord _⟩
  · have hfalse := hno ev (hport ▸ List.mem_cons_self)
    exact absurd (hfalse.symm.trans (resets_of_hard_reset hev)) Bool.false_ne_true

/-- Settles O55: the one answer of the step keeps the equivalence, and the port only loses its first event. -/
theorem stepKeepsWentWellIffRunning : Obligations.StepKeepsWentWellIffRunning := by
  unfold Obligations.StepKeepsWentWellIffRunning
  intro s t hno hs hstep
  obtain rfl | ⟨ev, rest, hport, hport', hanswers⟩ := step_answersOnce hno hstep
  · exact ⟨hs, hno⟩
  · refine ⟨hanswers.wentWell_iff_running hs, fun ev' hmem => hno ev' ?_⟩
    rw [hport]
    exact List.mem_cons_of_mem ev (hport' ▸ hmem)

/-! ### Runs without a reset -/

/-- Every state has a next one. -/
theorem exists_step (s : State) : ∃ t, step s = .next t := by
  cases hport : s.port with
  | nil => exact ⟨s, by rw [step, State.takeEvent, hport]⟩
  | cons ev rest =>
    obtain ⟨f, -, hstep⟩ := step_portBlind ev
    exact ⟨_, hstep s rest hport⟩

theorem run_succ_of_step {s t : State} (hstep : step s = .next t) (n : Nat) :
    Sys2Proof.core.run (n + 1) s = Sys2Proof.core.run n t := by
  have hcore : Sys2Proof.core.step s = .next t := hstep
  simp only [Host.Core.run, hcore]

/-- At a port without resets every run answers a state, in which the equivalence still holds. -/
theorem run_keeps_wentWell_iff_running (n : Nat) {s : State} (hno : ∀ ev ∈ s.port, ev.resets = false)
    (hs : s.WentWell ↔ s.Running) : ∃ t, Sys2Proof.core.run n s = .next t ∧ (t.WentWell ↔ t.Running) := by
  induction n generalizing s with
  | zero => exact ⟨s, rfl, hs⟩
  | succ n ih =>
    obtain ⟨t, hstep⟩ := exists_step s
    obtain ⟨hiff, hno'⟩ := stepKeepsWentWellIffRunning s t hno hs hstep
    rw [run_succ_of_step hstep]
    exact ih hno' hiff

/-- Settles O21: at the start both sides hold, and a run keeps their equivalence. -/
theorem runWentWellIffRunning : Obligations.RunWentWellIffRunning := by
  unfold Obligations.RunWentWellIffRunning
  exact fun n s hwell hrun hno => run_keeps_wentWell_iff_running n hno (iff_of_true hwell hrun)

end Sys2Proof.Proofs
end

section
/-! The writers of the fields of STATUS (R26). A command changes STATUS by a fault that `expectedFault` names, or as one
of the three commands that write a flag, which touch OK or EQ alone (O23). -/

namespace Sys2Proof.Proofs

open Sys2Proof.Machine Sys2Proof.Claims

/-- From `s` to `t` no fault was written to STATUS, and a flag only by one of its writers. -/
structure FlagsHaveTheirWriters (i : Instr) (s t : State) : Prop where
  f : statusF t.status = statusF s.status
  fcode : statusFcode t.status = statusFcode s.status
  ok : statusOk t.status ≠ statusOk s.status → (∃ pd, i = .rsVfy pd) ∨ ∃ rd pd idx, i = .rsCor rd pd idx
  eq : statusEq t.status ≠ statusEq s.status → ∃ ra rb, i = .gfEq ra rb
  zeroBits : ∀ b, b = 2 ∨ b = 3 ∨ 9 ≤ b → t.status.getLsbD b = s.status.getLsbD b

namespace FlagsHaveTheirWriters
variable {i : Instr} {s t : State}

theorem of_status_eq (h : t.status = s.status) : FlagsHaveTheirWriters i s t where
  f := congrArg statusF h
  fcode := congrArg statusFcode h
  ok hne := absurd (congrArg statusOk h) hne
  eq hne := absurd (congrArg statusEq h) hne
  zeroBits b _ := congrArg (·.getLsbD b) h

theorem of_withOk {b : Bool} (h : t.status = withOk s.status b)
    (hi : (∃ pd, i = .rsVfy pd) ∨ ∃ rd pd idx, i = .rsCor rd pd idx) : FlagsHaveTheirWriters i s t where
  f := by rw [h, statusF_withOk]
  fcode := by rw [h, statusFcode_withOk]
  ok _ := hi
  eq hne := absurd (by rw [h, statusEq_withOk]) hne
  zeroBits b hb := by rw [h, getLsbD_withOk, if_neg (by omega)]

theorem of_withEq {b : Bool} (h : t.status = withEq s.status b) (hi : ∃ ra rb, i = .gfEq ra rb) :
    FlagsHaveTheirWriters i s t where
  f := by rw [h, statusF_withEq]
  fcode := by rw [h, statusFcode_withEq]
  ok hne := absurd (by rw [h, statusOk_withEq]) hne
  eq _ := hi
  zeroBits b hb := by rw [h, getLsbD_withEq, if_neg (by omega)]

end FlagsHaveTheirWriters

/-- A command executed in the RUNNING state that writes STATUS is GF.EQ, RS.VFY or RS.COR, and writes its flag. -/
theorem flagsHaveTheirWriters_of_running {i : Instr} {s t : State} (hexec : exec i s = .next t) (hrun : s.Running)
    (hnone : expectedFault i s = none) (hrst : i ≠ .sysRst) : FlagsHaveTheirWriters i s t := by
  by_cases hstatus : t.status = s.status
  · exact .of_status_eq hstatus
  · obtain hflags | ⟨-, -, hsome⟩ := (writesOnlyListed_of_exec hexec).status hstatus
    · cases i with
      | sysRst => exact absurd rfl hrst
      | gfEq ra rb =>
        obtain rfl := eq_of_exec_eq hexec (exec_of_running hrun rfl)
        exact .of_withEq rfl ⟨ra, rb, rfl⟩
      | rsVfy pd =>
        obtain rfl := eq_of_exec_eq hexec (exec_of_running hrun rfl)
        exact .of_withOk rfl (.inl ⟨pd, rfl⟩)
      | rsCor rd pd idx =>
        have hidx : ¬ 13 < idx := fun hlt => nomatch (if_pos hlt).symm.trans hnone
        obtain rfl := eq_of_exec_eq hexec (exec_rsCor hrun rd pd (by omega : idx < 14))
        exact .of_withOk rfl (.inr ⟨rd, pd, idx, rfl⟩)
      | _ => cases hflags
    · rw [hnone] at hsome
      cases hsome

/-- What a command but SYS.RST does to STATUS: a fault that is expected, or no fault at all. -/
theorem status_of_exec {i : Instr} {s t : State} (hexec : exec i s = .next t) (hrst : i ≠ .sysRst) :
    FlagsHaveTheirWriters i s t ∨ (s.Running ∧ ∃ c, expectedFault i s = some c ∧ FaultsWith s t c) := by
  cases hF : statusF s.status with
  | true =>
    obtain hexec' | ⟨data, hexec'⟩ := exec_of_faulted hF hrst
    all_goals
      obtain rfl := eq_of_exec_eq hexec hexec'
      exact .inl (.of_status_eq rfl)
  | false =>
    cases hexpected : expectedFault i s with
    | none => exact .inl (flagsHaveTheirWriters_of_running hexec hF hexpected hrst)
    | some c =>
      obtain ⟨t', hexec', hends⟩ := exec_endsAsExpected i hF
      rw [hexpected, eq_of_exec_eq hexec' hexec] at hends
      exact .inr ⟨hF, c, rfl, hends⟩

/-- Settles O23: without a fault F and FCODE are kept; an expected fault writes them alone. -/
theorem statusFieldsHaveTheirWriters : Obligations.StatusFieldsHaveTheirWriters := by
  unfold Obligations.StatusFieldsHaveTheirWriters
  intro i s t hexec hrst
  obtain ⟨hF, hfcode, hok, heq, hzero⟩ | ⟨hrun, c, hexpected, hfaults⟩ := status_of_exec hexec hrst
  · refine ⟨hok, heq, hzero, fun hfaulted => ⟨hF.trans hfaulted, hfcode⟩, fun _ _ => hfcode, fun hrun hfaulted => ?_⟩
    exact absurd (hF.symm.trans hfaulted) hrun.not_faulted
  · obtain ⟨-, -, -, -, -, hfaulted, hcode, hbits, -⟩ := hfaults
    refine ⟨fun hne => absurd (hbits 0 (by decide)) hne, fun hne => absurd (hbits 1 (by decide)) hne,
      fun b hb => hbits b (by omega), fun hfaulted' => ?_, fun _ hrun' => ?_, fun _ _ => ⟨c, hexpected, hcode⟩⟩
    · exact absurd hfaulted' hrun.not_faulted
    · exact absurd hfaulted hrun'.not_faulted

end Sys2Proof.Proofs
end
